-- ==== Sys2Proof/Word.lean ====
section
/-! DEFINITION. The words of AKRE-256: 32-bit register words (R7) and bytes. -/

namespace Sys2Proof

/-- A 32-bit register word (R7 "register data width"). -/
abbrev Word := BitVec 32

/-- A byte, 0..255 (R7 "byte width"). -/
abbrev Byte := BitVec 8

end Sys2Proof
end

