-- ==== Sys2Proof/Syntax.lean ====
section
/-! DEFINITION. The commands of AKRE-256, the names of its registers, the host's accesses, and the
host-script statements. -/

namespace Sys2Proof

/-- The five commands (R82), one per row of the opcode table. A command word has no operand field: every
operand comes from a named register (R80, R83). -/
inductive Instr where
  /-- INV, modular inverse with coprimality detection (R108). -/
  | inv
  /-- KPS, known-plaintext key recovery (R131). -/
  | kps
  /-- DEC, decrypt one byte (R140). -/
  | dec
  /-- BFS, brute-force key search (R150). -/
  | bfs
  /-- EKS, search over the structurally valid keys (R155). -/
  | eks
  deriving DecidableEq, Repr

/-- The registers of the window, by name (R22): the 32 rows below offset 0x80, then the chain words. -/
inductive RegId where
  | id | ctrl | status | cmd | errinfo
  | invM | invN | invX | invGcd | invBX | invBY | chainLen
  | kpsP1 | kpsC1 | kpsP2 | kpsC2 | kpsPlen | kpsClen
  | kpsDP | kpsDC | kpsG | kpsM | kpsB
  | keyMinv | keyB | decIn | decOut
  | srchH0 | srchH1 | sig0 | sig1 | srchCnt
  | chainA (i : Fin 11)
  | chainB (i : Fin 11)
  deriving DecidableEq, Repr

/-- One access of the host. `read` and `write` are the two primitives of R61. `laneRead` and `laneWrite` are
the same on a bus that carries a byte address and four byte lanes (R67, R68): `lanes` selects the lanes, and a
written word comes as its four lane bytes, `b0` on lane 0. -/
inductive Access where
  | read (i : Fin 64)
  | write (i : Fin 64) (v : Word)
  | laneRead (addr : BitVec 8) (lanes : BitVec 4)
  | laneWrite (addr : BitVec 8) (lanes : BitVec 4) (b3 b2 b1 b0 : Byte)
  deriving DecidableEq, Repr

/-- One atomic transition of the environment's order (R180): a host access, the engine's turn to complete, a
reset (R200), or a host access issued while the reset input is held (R204). -/
inductive Event where
  | host (a : Access)
  | engine
  | reset
  | hostInReset (a : Access)
  deriving DecidableEq, Repr

/-- A host-script statement (R86) or pseudo-statement (R87). Numbers are as written in the script; that they
fit their registers' words is a check of WellFormed. -/
inductive Stmt where
  /-- `wr NAME, v` -/
  | wr (r : RegId) (v : Nat)
  /-- `rd NAME` -/
  | rd (r : RegId)
  /-- `rd NAME -> e` -/
  | rdExpect (r : RegId) (e : Nat)
  /-- a command by its mnemonic -/
  | issue (i : Instr)
  /-- `cmd w` -/
  | cmd (w : Nat)
  | wait
  | ack
  | clrovr
  | inv (m n : Nat)
  | kps (p1 c1 p2 c2 len : Nat)
  | dec (c : Nat)
  | setkey (mi b : Nat)
  | bfs (h0 h1 : Nat)
  | eks (h0 h1 : Nat)
  | sig (s0 s1 : Nat)
  deriving DecidableEq, Repr

end Sys2Proof
end

