-- ==== Sys2Proof/WellFormed.lean ====
section
/-! DEFINITION. The checks a term of the syntax must pass: which command words are legal (R81), which
script statements can be written as accesses (R86), and which host inputs a search needs (93). -/

namespace Sys2Proof

/-- R81: bits [31:4] of a legal word are 0. -/
def rsvIsZero (w : Word) : Bool := w.extractLsb 31 4 == 0

/-- R81: bits [3:0] of a legal word are one of 1, 2, 3, 4, 5. -/
def opIsAssigned (w : Word) : Bool :=
  let op := (w.extractLsb 3 0).toNat
  decide (1 ≤ op) && decide (op ≤ 5)

/-- R81: the legal command words. -/
def legalWord (w : Word) : Bool := rsvIsZero w && opIsAssigned w

/-- A command has no operand field (R80, R83), so every `Instr` is well formed. -/
def Instr.wellFormed : Instr → Bool
  | .inv => true
  | .kps => true
  | .dec => true
  | .bfs => true
  | .eks => true

/-- A number a script may give for a 32-bit register word (R61, R86). -/
def fitsWord (v : Nat) : Bool := decide (v < 2 ^ 32)

/-- R86, R87: every number of the statement fits the word it is written as. -/
def Stmt.wellFormed : Stmt → Bool
  | .wr _ v => fitsWord v
  | .rd _ => true
  | .rdExpect _ e => fitsWord e
  | .issue i => i.wellFormed
  | .cmd w => fitsWord w
  | .wait => true
  | .ack => true
  | .clrovr => true
  | .inv m n => fitsWord m && fitsWord n
  | .kps p1 c1 p2 c2 len => fitsWord p1 && fitsWord c1 && fitsWord p2 && fitsWord c2 && fitsWord len
  | .dec c => fitsWord c
  | .setkey mi b => fitsWord mi && fitsWord b
  | .bfs h0 h1 => fitsWord h0 && fitsWord h1
  | .eks h0 h1 => fitsWord h0 && fitsWord h1
  | .sig s0 s1 => fitsWord s0 && fitsWord s1

/-- 93: a model of the host program rejects a search without two header bytes. -/
def hasHeader (ciphertext : List Byte) : Bool := decide (2 ≤ ciphertext.length)

end Sys2Proof
end

