-- ==== Sys2Proof/Decode.lean ====
section
/-! DEFINITION. Decoding a command word to a command, total, rejecting by name (R80 to R85); and the encoder
(R82). -/

namespace Sys2Proof

/-- Why a word encodes no command (R84). -/
inductive DecodeReject where
  /-- RSV, bits [31:4], is not 0, whatever the OP. -/
  | reservedBits
  /-- OP = 0x0, which is not a no-op. -/
  | opZero
  /-- OP is one of 0x6 to 0xF. -/
  | opUnassigned
  deriving DecidableEq, Repr

/-- The OP field, bits [3:0] (R80). -/
def opField (w : Word) : BitVec 4 := w.extractLsb 3 0

/-- The RSV field, bits [31:4] (R80). -/
def rsvField (w : Word) : BitVec 28 := w.extractLsb 31 4

/-- The command an OP selects (R82). -/
def instrOfOp (op : BitVec 4) : Except DecodeReject Instr :=
  match op.toNat with
  | 0 => .error .opZero
  | 1 => .ok .inv
  | 2 => .ok .kps
  | 3 => .ok .dec
  | 4 => .ok .bfs
  | 5 => .ok .eks
  | _ => .error .opUnassigned

/-- R81: decoding is total, every word is one of the five legal words or rejected. -/
def decode (w : Word) : Except DecodeReject Instr :=
  if rsvField w = 0 then instrOfOp (opField w) else .error .reservedBits

/-- The OP of a command (R82). -/
def Instr.opcode : Instr → BitVec 4
  | .inv => 0x1
  | .kps => 0x2
  | .dec => 0x3
  | .bfs => 0x4
  | .eks => 0x5

/-- The command word of a command: RSV = 0 above its OP (R80, R82). -/
def encode (i : Instr) : Word := (0 : BitVec 28) ++ i.opcode

/-- The word the four byte lanes carry, lane j holding bits [8j+7:8j] (R67). -/
def wordOfLanes (b3 b2 b1 b0 : Byte) : Word := b3 ++ b2 ++ b1 ++ b0

/-- The byte on lane j of a word (R67). -/
def laneByte (w : Word) (j : Fin 4) : Byte := (w >>> (8 * j.val)).setWidth 8

/-- The command word the host's opcode table means by `w` over its low `nbits` bits: one 32-bit word (R85), laid
out on the byte lanes of R67 as the bus carries it and read back. -/
def tableWord (nbits w : Nat) : Word :=
  let v : Word := BitVec.ofNat 32 (w % 2 ^ nbits)
  wordOfLanes (laneByte v 3) (laneByte v 2) (laneByte v 1) (laneByte v 0)

/-- The instruction the decoder reads from an opcode-table word, none where it refuses. -/
def decodeTableWord (nbits w : Nat) : Option Instr :=
  match decode (tableWord nbits w) with
  | .ok i => some i
  | .error _ => none

end Sys2Proof
end

