-- ==== Sys2Proof/Config.lean ====
section
/-! DEFINITION. The implementation parameters of AKRE-256, with the values R7 gives them. No parameter
is left free here: T_CMD is the environment's (the schedule of State, log entry 1), HOST_BUS and AKRE_BASE
are below the model's level (log entry 15), and the spec leaves no value undefined. -/

namespace Sys2Proof.Config

/-- `N_MOD`, the cipher modulus (R7). -/
def nMod : Nat := 256

/-- `N_MAX`, the largest modulus INV accepts (R7, R100). -/
def nMax : Nat := 256

/-- `CHAIN_MAX`, the depth of the chain buffer (R7, R44). -/
def chainMax : Nat := 11

/-- The constant the ID register reads, ASCII "AKRE" (R23). -/
def idWord : Word := 0x414B5245#32

/-- The reset value of INV_N, the cipher modulus (R34, R201). -/
def resetInvN : Word := 0x100#32

/-- The reset value of SIG0, the first byte of the default signature (R42, R201). -/
def resetSig0 : Byte := 0xFF#8

/-- The reset value of SIG1, the second byte of the default signature (R42, R201). -/
def resetSig1 : Byte := 0xD8#8

/-- The number of word indices of the register window (R60). -/
def windowWords : Nat := 64

/-- The smallest number of known pairs KPS accepts (R121). -/
def minSamples : Nat := 2

end Sys2Proof.Config
end

