-- ==== Sys2Proof/Machine/State.lean ====
section
/-! DEFINITION. The state of AKRE-256 (R20), its error kinds (R170), the reasons a step stops, and the state
after reset (R201). -/

namespace Sys2Proof.Machine

/-- Why the machine stops with a fault. -/
inductive Fault where
  /-- Raised by a step that starts from a state whose STATUS.ERR holds the reserved code 7: "A model whose
  STATUS.ERR reads 7 is wrong" (R173; treatment `fault` of file 93). Safe: no step reaches such a state. -/
  | reservedErrCode
  deriving DecidableEq, Repr

/-- Why the model gives no next state. -/
inductive Refusal where
  /-- Raised by an arm of `exec` whose instruction has no meaning yet. Safe. No arm raises it. -/
  | notModelled (mnemonic : String)
  /-- Raised by a host write of fewer than four byte lanes: "A model refuses a host program that issues one"
  (R68; treatment `refuse` of file 93). Safe. -/
  | subWordWrite
  deriving DecidableEq, Repr

/-- The error kinds a completion can report (R170). Code 7 has no kind: no rule produces it (R173). -/
inductive ErrKind where
  | none | invalidDomain | notCoprime | lengthMismatch | insufficientSamples | noSolution | illegalCommand
  deriving DecidableEq, Repr

/-- The fields of STATUS, bits [11:0] (R25). Bits [31:12] are not stored and read 0. -/
structure Status where
  busy : Bool
  done : Bool
  found : Bool
  ovr : Bool
  err : BitVec 3
  red : Bool
  lastop : BitVec 4
  deriving DecidableEq, Repr

/-- The registers that some command reads as operands (R83), which are also all the read-write registers
except CTRL (R22). KEY_MINV and KEY_B are results of KPS, BFS and EKS as well (R39). -/
structure OperandRegs where
  /-- INV_M (R34) -/
  invM : Word
  /-- INV_N (R34) -/
  invN : Word
  /-- KPS_P1 (R36) -/
  kpsP1 : Byte
  /-- KPS_C1 (R36) -/
  kpsC1 : Byte
  /-- KPS_P2 (R36) -/
  kpsP2 : Byte
  /-- KPS_C2 (R36) -/
  kpsC2 : Byte
  /-- KPS_PLEN (R37) -/
  kpsPlen : Word
  /-- KPS_CLEN (R37) -/
  kpsClen : Word
  /-- KEY_MINV (R39) -/
  keyMinv : Byte
  /-- KEY_B (R39) -/
  keyB : Byte
  /-- DEC_IN (R40) -/
  decIn : Byte
  /-- SRCH_H0 (R41) -/
  srchH0 : Byte
  /-- SRCH_H1 (R41) -/
  srchH1 : Byte
  /-- SIG0 (R42) -/
  sig0 : Byte
  /-- SIG1 (R42) -/
  sig1 : Byte
  deriving DecidableEq, Repr

/-- The result registers of INV besides the chain (R35). -/
structure InvRegs where
  /-- INV_X -/
  x : BitVec 8
  /-- INV_GCD -/
  gcd : BitVec 9
  /-- INV_BX, two's complement (R11) -/
  bx : Word
  /-- INV_BY, two's complement (R11) -/
  by_ : Word
  /-- CHAIN_LEN -/
  len : BitVec 4
  deriving DecidableEq, Repr

/-- One entry of the chain buffer, four 9-bit fields (R44). -/
structure ChainEntry where
  p : BitVec 9
  q : BitVec 9
  k : BitVec 9
  r : BitVec 9
  deriving DecidableEq, Repr

/-- The result registers of KPS besides the key (R38). -/
structure KpsRegs where
  /-- KPS_DP -/
  dp : Byte
  /-- KPS_DC -/
  dc : Byte
  /-- KPS_G -/
  g : BitVec 9
  /-- KPS_M -/
  m : Byte
  /-- KPS_B -/
  b : Byte
  deriving DecidableEq, Repr

/-- The pending command's snapshot: the command word and the operand registers at the accept (R46). It keeps
every operand register; a command reads only its own (log entry 6). -/
structure Pending where
  word : Word
  ops : OperandRegs
  deriving DecidableEq, Repr

/-- What a register read gives the host: a whole word (R66), or the selected byte lanes of one with their lane
numbers, rising (R68). -/
inductive Reply where
  | word (w : Word)
  | lanes (bs : List (Fin 4 × Byte))
  deriving DecidableEq, Repr

/-- The state of AKRE-256 (R20). ID is hard-wired (R23) and IRQ has no storage (R47), so neither is a field.
The last two fields are the model's own: the events the environment has still to deliver (log entry 1) and what
reads have returned to the host (log entry 4). -/
structure State where
  /-- CTRL.IE (R24) -/
  ctrlIE : Bool
  /-- STATUS (R25) -/
  status : Status
  /-- CMD (R31) -/
  cmd : Word
  /-- ERRINFO (R33) -/
  errinfo : Word
  /-- the operand registers (R83) -/
  ops : OperandRegs
  /-- INV_X, INV_GCD, INV_BX, INV_BY, CHAIN_LEN (R35) -/
  inv : InvRegs
  /-- CHAIN_A, CHAIN_B (R44) -/
  chain : Vector ChainEntry 11
  /-- KPS_DP, KPS_DC, KPS_G, KPS_M, KPS_B (R38) -/
  kps : KpsRegs
  /-- DEC_OUT (R40) -/
  decOut : Byte
  /-- SRCH_CNT (R43) -/
  srchCnt : BitVec 16
  /-- the pending command, hidden (R46) -/
  pending : Option Pending
  /-- the model's own: the events still to come, the next one first (R180, log entry 1) -/
  schedule : List Event
  /-- the model's own: what reads have returned, newest first (R61, log entry 4) -/
  replies : List Reply
  deriving DecidableEq, Repr

/-- The chain entry of reset and of the padding (R102, R201). -/
def ChainEntry.zero : ChainEntry := { p := 0, q := 0, k := 0, r := 0 }

/-- STATUS after reset (R201). -/
def Status.reset : Status :=
  { busy := false, done := false, found := false, ovr := false, err := 0, red := false, lastop := 0 }

/-- The operand registers after reset (R201): zeros, but for INV_N, SIG0 and SIG1. -/
def OperandRegs.reset : OperandRegs :=
  { invM := 0, invN := Config.resetInvN
    kpsP1 := 0, kpsC1 := 0, kpsP2 := 0, kpsC2 := 0, kpsPlen := 0, kpsClen := 0
    keyMinv := 0, keyB := 0, decIn := 0
    srchH0 := 0, srchH1 := 0, sig0 := Config.resetSig0, sig1 := Config.resetSig1 }

/-- The machine right after reset (R201), with no event scheduled and nothing read yet (log entries 1, 4). -/
def State.reset : State :=
  { ctrlIE := false
    status := Status.reset
    cmd := 0
    errinfo := 0
    ops := OperandRegs.reset
    inv := { x := 0, gcd := 0, bx := 0, by_ := 0, len := 0 }
    chain := Vector.replicate 11 ChainEntry.zero
    kps := { dp := 0, dc := 0, g := 0, m := 0, b := 0 }
    decOut := 0
    srchCnt := 0
    pending := none
    schedule := []
    replies := [] }

end Sys2Proof.Machine
end

