-- ==== Sys2Proof/Machine/Flags.lean ====
section
/-! DEFINITION. STATUS: its word, its error codes, every way its fields change, and the interrupt line. -/

namespace Sys2Proof.Machine

/-- The code of an error kind in STATUS.ERR (R170). -/
def ErrKind.code : ErrKind → BitVec 3
  | .none => 0
  | .invalidDomain => 1
  | .notCoprime => 2
  | .lengthMismatch => 3
  | .insufficientSamples => 4
  | .noSolution => 5
  | .illegalCommand => 6

/-- The word a read of STATUS gives: BUSY in bit 0, DONE 1, FOUND 2, OVR 3, ERR 6..4, RED 7, LASTOP 11..8, and
0 above (R25). -/
def Status.word (st : Status) : Word :=
  (0 : BitVec 20) ++ st.lastop ++ BitVec.ofBool st.red ++ st.err ++ BitVec.ofBool st.ovr ++
    BitVec.ofBool st.found ++ BitVec.ofBool st.done ++ BitVec.ofBool st.busy

/-- The accept of a command sets BUSY and clears DONE (R26, R27, R63). -/
def Status.accepted (st : Status) : Status := { st with busy := true, done := false }

/-- The status writes every completion of a word with this OP makes first (R29). OVR is not touched. -/
def Status.completed (op : BitVec 4) (st : Status) : Status :=
  { st with busy := false, done := true, lastop := op, err := ErrKind.none.code, found := false, red := false }

/-- A host write of v to STATUS: bit 1 clears DONE, bit 3 clears OVR, nothing else (R30). -/
def Status.hostWritten (v : Word) (st : Status) : Status :=
  { st with
    done := if v.getLsbD 1 then false else st.done
    ovr := if v.getLsbD 3 then false else st.ovr }

/-- A host write ignored because BUSY = 1 sets OVR (R28, R64). -/
def Status.overrun (st : Status) : Status := { st with ovr := true }

/-- `finish` sets ERR and leaves every other field (R12). -/
def Status.withErr (e : ErrKind) (st : Status) : Status := { st with err := e.code }

/-- KPS past the two checks of its reduction branch sets RED (R127). -/
def Status.withRed (red : Bool) (st : Status) : Status := { st with red := red }

/-- A search that finds a key sets FOUND (R150, R155). -/
def Status.withFound (st : Status) : Status := { st with found := true }

/-- The interrupt line, a level: CTRL.IE and STATUS.DONE (R47). -/
def State.irq (s : State) : Bool := s.ctrlIE && s.status.done

end Sys2Proof.Machine
end

