-- ==== Sys2Proof/Machine/Operands.lean ====
section
/-! DEFINITION. The register map (R22), what a read of each register gives (R66), and the operands a command
reads (R46, R83). -/

namespace Sys2Proof.Machine

/-- The registers in the order of their word indices, from index 0 (R22). Indices past its end are unmapped. -/
def regMap : List RegId :=
  [.id, .ctrl, .status, .cmd, .errinfo,
   .invM, .invN, .invX, .invGcd, .invBX, .invBY, .chainLen,
   .kpsP1, .kpsC1, .kpsP2, .kpsC2, .kpsPlen, .kpsClen,
   .kpsDP, .kpsDC, .kpsG, .kpsM, .kpsB,
   .keyMinv, .keyB, .decIn, .decOut,
   .srchH0, .srchH1, .sig0, .sig1, .srchCnt] ++
  (List.finRange 11).flatMap fun i => [.chainA i, .chainB i]

/-- The register at a word index, none where the index is unmapped (R22, R61). -/
def regAt (i : Fin 64) : Option RegId := regMap[i.val]?

/-- The word index of a register: its byte offset over 4 (R61). -/
def regIndex (r : RegId) : Fin 64 := Fin.ofNat 64 (regMap.idxOf r)

/-- The access codes of R22. -/
inductive RegAccess where
  | ro | rw | w1c | cmd
  deriving DecidableEq, Repr

/-- The access code of a register (R22). -/
def regAccess : RegId → RegAccess
  | .id => .ro
  | .ctrl => .rw
  | .status => .w1c
  | .cmd => .cmd
  | .errinfo => .ro
  | .invM => .rw
  | .invN => .rw
  | .invX => .ro
  | .invGcd => .ro
  | .invBX => .ro
  | .invBY => .ro
  | .chainLen => .ro
  | .kpsP1 => .rw
  | .kpsC1 => .rw
  | .kpsP2 => .rw
  | .kpsC2 => .rw
  | .kpsPlen => .rw
  | .kpsClen => .rw
  | .kpsDP => .ro
  | .kpsDC => .ro
  | .kpsG => .ro
  | .kpsM => .ro
  | .kpsB => .ro
  | .keyMinv => .rw
  | .keyB => .rw
  | .decIn => .rw
  | .decOut => .ro
  | .srchH0 => .rw
  | .srchH1 => .rw
  | .sig0 => .rw
  | .sig1 => .rw
  | .srchCnt => .ro
  | .chainA _ => .ro
  | .chainB _ => .ro

/-- The word CHAIN_A[i] reads: q in bits [24:16], p in bits [8:0] (R44). -/
def ChainEntry.wordA (e : ChainEntry) : Word := (0 : BitVec 7) ++ e.q ++ (0 : BitVec 7) ++ e.p

/-- The word CHAIN_B[i] reads: r in bits [24:16], k in bits [8:0] (R44). -/
def ChainEntry.wordB (e : ChainEntry) : Word := (0 : BitVec 7) ++ e.r ++ (0 : BitVec 7) ++ e.k

/-- The word a register reads: its stored bits, zeros above them (R22, R45, R66). ID is the constant of R23. -/
def State.readReg (r : RegId) (s : State) : Word :=
  match r with
  | .id => Config.idWord
  | .ctrl => (BitVec.ofBool s.ctrlIE).setWidth 32
  | .status => s.status.word
  | .cmd => s.cmd
  | .errinfo => s.errinfo
  | .invM => s.ops.invM
  | .invN => s.ops.invN
  | .invX => s.inv.x.setWidth 32
  | .invGcd => s.inv.gcd.setWidth 32
  | .invBX => s.inv.bx
  | .invBY => s.inv.by_
  | .chainLen => s.inv.len.setWidth 32
  | .kpsP1 => s.ops.kpsP1.setWidth 32
  | .kpsC1 => s.ops.kpsC1.setWidth 32
  | .kpsP2 => s.ops.kpsP2.setWidth 32
  | .kpsC2 => s.ops.kpsC2.setWidth 32
  | .kpsPlen => s.ops.kpsPlen
  | .kpsClen => s.ops.kpsClen
  | .kpsDP => s.kps.dp.setWidth 32
  | .kpsDC => s.kps.dc.setWidth 32
  | .kpsG => s.kps.g.setWidth 32
  | .kpsM => s.kps.m.setWidth 32
  | .kpsB => s.kps.b.setWidth 32
  | .keyMinv => s.ops.keyMinv.setWidth 32
  | .keyB => s.ops.keyB.setWidth 32
  | .decIn => s.ops.decIn.setWidth 32
  | .decOut => s.decOut.setWidth 32
  | .srchH0 => s.ops.srchH0.setWidth 32
  | .srchH1 => s.ops.srchH1.setWidth 32
  | .sig0 => s.ops.sig0.setWidth 32
  | .sig1 => s.ops.sig1.setWidth 32
  | .srchCnt => s.srchCnt.setWidth 32
  | .chainA i => s.chain[i].wordA
  | .chainB i => s.chain[i].wordB

/-- RegRead(i): the register's word, 0 at an unmapped index (R61, R66). -/
def State.regRead (i : Fin 64) (s : State) : Word :=
  match regAt i with
  | some r => s.readReg r
  | none => 0

/-- The word index a byte address reaches: A[7:2]; A[1:0] is ignored (R68). -/
def indexOfAddr (addr : BitVec 8) : Fin 64 := (addr.extractLsb 7 2).toFin

/-- The selected byte lanes of a word with their lane numbers, rising (R67, R68). -/
def selectLanes (lanes : BitVec 4) (w : Word) : List (Fin 4 × Byte) :=
  ((List.finRange 4).filter fun j => lanes.getLsbD j.val).map fun j => (j, laneByte w j)

/-- What a read of the selected lanes gives: the word when all four are selected, else the lanes (R68). -/
def laneReply (lanes : BitVec 4) (w : Word) : Reply :=
  if lanes = BitVec.allOnes 4 then .word w else .lanes (selectLanes lanes w)

/-- The snapshot an accept of w takes: the word and the operand registers at that instant (R46, R63). -/
def State.snapshot (w : Word) (s : State) : Pending := { word := w, ops := s.ops }

/-- The operands a completion computes from: the pending snapshot's (R46). With nothing pending they are the live
registers; no completion happens then (R176, log entry 7). -/
def State.operands (s : State) : OperandRegs :=
  match s.pending with
  | some p => p.ops
  | none => s.ops

end Sys2Proof.Machine
end

