-- ==== Sys2Proof/Machine/Ops.lean ====
section
/-! DEFINITION. The operations every command and every access share: floor arithmetic (R9), `finish` and `raise`
(R12), the frame of a completion (R29, R176), the illegal completion (R172), key writes (R39), and host writes with
the accept (R62 to R65). There is no memory (R60), so no operation acts on one. Reporting an error is this
machine's whole exception mechanism: `State.finish` saves what R12 says, and nothing returns from it (R181,
R182). -/

namespace Sys2Proof.Machine

/-- `a mod q` of R9, the r with 0 ≤ r < q and a = q·(a div q) + r, as a natural number. -/
def modFloor (a : Int) (q : Nat) : Nat := (a % (q : Int)).toNat

/-- `sext_32` (R11): a signed value in two's complement. -/
def sext32 (v : Int) : Word := BitVec.ofInt 32 v

/-- `zext_32` (R11): an unsigned value in a word. -/
def zext32 (v : Nat) : Word := BitVec.ofNat 32 v

/-- `finish(err, info)` (R12): ERR and ERRINFO, and nothing else. -/
def State.finish (e : ErrKind) (info : Word) (s : State) : State :=
  { s with status := s.status.withErr e, errinfo := info }

/-- The status writes of a completion of word w (R29). -/
def State.statusFirst (w : Word) (s : State) : State :=
  { s with status := s.status.completed (opField w), errinfo := 0 }

/-- pending <- none, the end of a completion (R176). -/
def State.clearPending (s : State) : State := { s with pending := none }

/-- The completion of a legal command (R176): the status writes of R29 with the command's word, the command's rule
on the operands sampled at the accept, pending <- none. -/
def State.complete (i : Instr) (rule : OperandRegs → State → State) (s : State) : State :=
  (rule s.operands (s.statusFirst (encode i))).clearPending

/-- The completion of an illegal word w (R172): ERR = IllegalCommand and ERRINFO = w, over the status writes of
R29, and no other register. -/
def State.completeIllegal (w : Word) (s : State) : State :=
  ((s.statusFirst w).finish .illegalCommand w).clearPending

/-- KEY_MINV <- mi ; KEY_B <- b, of a command that recovered a key (R39). -/
def State.writeKey (mi b : Nat) (s : State) : State :=
  { s with ops := { s.ops with keyMinv := BitVec.ofNat 8 mi, keyB := BitVec.ofNat 8 b } }

/-- The accept of w (R63): CMD, BUSY, DONE and the snapshot, in one step. -/
def State.accept (w : Word) (s : State) : State :=
  { s with cmd := w, status := s.status.accepted, pending := some (s.snapshot w) }

/-- A host write of v to STATUS, busy or not (R30). -/
def State.writeStatus (v : Word) (s : State) : State := { s with status := s.status.hostWritten v }

/-- A host write ignored because BUSY = 1 (R64). -/
def State.ignoreBusy (s : State) : State := { s with status := s.status.overrun }

/-- What a write of v to an operand register stores: the low bits of v that the register keeps (R45). Registers that
are no operand register keep theirs. -/
def OperandRegs.store (r : RegId) (v : Word) (o : OperandRegs) : OperandRegs :=
  match r with
  | .invM => { o with invM := v }
  | .invN => { o with invN := v }
  | .kpsP1 => { o with kpsP1 := v.setWidth 8 }
  | .kpsC1 => { o with kpsC1 := v.setWidth 8 }
  | .kpsP2 => { o with kpsP2 := v.setWidth 8 }
  | .kpsC2 => { o with kpsC2 := v.setWidth 8 }
  | .kpsPlen => { o with kpsPlen := v }
  | .kpsClen => { o with kpsClen := v }
  | .keyMinv => { o with keyMinv := v.setWidth 8 }
  | .keyB => { o with keyB := v.setWidth 8 }
  | .decIn => { o with decIn := v.setWidth 8 }
  | .srchH0 => { o with srchH0 := v.setWidth 8 }
  | .srchH1 => { o with srchH1 := v.setWidth 8 }
  | .sig0 => { o with sig0 := v.setWidth 8 }
  | .sig1 => { o with sig1 := v.setWidth 8 }
  | .id | .ctrl | .status | .cmd | .errinfo => o
  | .invX | .invGcd | .invBX | .invBY | .chainLen => o
  | .kpsDP | .kpsDC | .kpsG | .kpsM | .kpsB | .decOut | .srchCnt => o
  | .chainA _ | .chainB _ => o

/-- A host write of v to a read-write register while BUSY = 0 (R45, R62): CTRL keeps bit 0 (R24), an operand
register its stored bits. -/
def State.storeReg (r : RegId) (v : Word) (s : State) : State :=
  match r with
  | .ctrl => { s with ctrlIE := v.getLsbD 0 }
  | r => { s with ops := s.ops.store r v }

/-- The effect of a host write of v to a register while BUSY = 0 (R62, R65). -/
def State.writeReg (r : RegId) (v : Word) (s : State) : State :=
  match regAccess r with
  | .ro => s
  | .rw => s.storeReg r v
  | .w1c => s.writeStatus v
  | .cmd => s.accept v

/-- RegWrite(i, v): a write to STATUS always acts (R30); any other write while busy only sets OVR (R64); the rest
by the register at i, and nothing at an unmapped index (R62, R65). -/
def State.regWrite (i : Fin 64) (v : Word) (s : State) : State :=
  if regAt i = some .status then s.writeStatus v
  else if s.status.busy then s.ignoreBusy
  else
    match regAt i with
    | some r => s.writeReg r v
    | none => s

/-- A read's word or lanes go to the host (R61, log entry 4). -/
def State.reply (r : Reply) (s : State) : State := { s with replies := r :: s.replies }

end Sys2Proof.Machine
end

