-- ==== Sys2Proof/Machine/Inverse.lean ====
section
/-! DEFINITION. The modular-inverse unit: the chain, its gcd, the Bezout fold, InvCore, and INV (R100 to R109). -/

namespace Sys2Proof.Machine

/-- A ModuloStep: p ≤ q, k = q div p, r = q mod p (R44, R101). -/
structure ModuloStep where
  p : Nat
  q : Nat
  k : Nat
  r : Nat
  deriving DecidableEq, Repr

/-- R100: 1 ≤ n ≤ 256 and 1 ≤ m ≤ n − 1. -/
def inDomain (m n : Nat) : Bool :=
  decide (1 ≤ n) && decide (n ≤ Config.nMax) && decide (1 ≤ m) && decide (m ≤ n - 1)

/-- The division pass of R101 from the pair (p, q). The fuel bounds the number of steps: the divisor strictly
decreases, so fuel p never runs out (R103, log entry 11). -/
def chainFrom : (fuel p q : Nat) → List ModuloStep
  | 0, _, _ => []
  | fuel + 1, p, q =>
    if q % p = 0 then [{ p := p, q := q, k := q / p, r := q % p }]
    else { p := p, q := q, k := q / p, r := q % p } :: chainFrom fuel (q % p) p

/-- `Chain(m, n)` (R101). -/
def chain (m n : Nat) : List ModuloStep := chainFrom m m n

/-- The gcd of a chain: the divisor p of its last step, whose remainder is 0 (R104, C1). -/
def chainGcd (S : List ModuloStep) : Nat :=
  match S.getLast? with
  | some st => st.p
  | none => 0

/-- The Bezout fold (R106), from the last step back to the first: (1, 0) at the last step, then
(a, b) <- (b − k·a, a). -/
def fold : List ModuloStep → Int × Int
  | [] => (1, 0)
  | [_] => (1, 0)
  | st :: st' :: rest =>
    let (a, b) := fold (st' :: rest)
    (b - (st.k : Int) * a, a)

/-- x_raw + n when x_raw is negative, else x_raw (R107). -/
def normalize (x : Int) (n : Nat) : Int := if x < 0 then x + (n : Int) else x

/-- The two outcomes of InvCore (R13, R107). -/
inductive InvResult where
  | ok (x : Nat)
  | notCoprime (g : Nat)
  deriving DecidableEq, Repr

/-- The pure function InvCore (R107), for 1 ≤ n ≤ 256 and 1 ≤ m ≤ n − 1. -/
def invCore (m n : Nat) : InvResult :=
  let S := chain m n
  let g := chainGcd S
  if g ≠ 1 then .notCoprime g else .ok (normalize (fold S).1 n).toNat

/-- The x of an InvCore that returned Ok. KPS uses it only where R126, R127 and R129 say that InvCore returns Ok; the
0 on the other outcome reaches no register (log entry 13). -/
def InvResult.value : InvResult → Nat
  | .ok x => x
  | .notCoprime _ => 0

/-- A ModuloStep in the chain buffer's four 9-bit fields (R44). -/
def ModuloStep.entry (st : ModuloStep) : ChainEntry :=
  { p := BitVec.ofNat 9 st.p, q := BitVec.ofNat 9 st.q, k := BitVec.ofNat 9 st.k, r := BitVec.ofNat 9 st.r }

/-- Entry i of the buffer after an INV with chain S: S[i], or zeros past its end (R102). -/
def entryAt (S : List ModuloStep) (i : Nat) : ChainEntry :=
  match S[i]? with
  | some st => st.entry
  | none => ChainEntry.zero

/-- The whole chain buffer for a chain S (R102). -/
def bufferOf (S : List ModuloStep) : Vector ChainEntry 11 :=
  #v[entryAt S 0, entryAt S 1, entryAt S 2, entryAt S 3, entryAt S 4, entryAt S 5, entryAt S 6, entryAt S 7,
    entryAt S 8, entryAt S 9, entryAt S 10]

/-- CHAIN_LEN, the chain buffer and INV_GCD of a chain (R102, R104). -/
def State.writeChain (S : List ModuloStep) (s : State) : State :=
  { s with
    inv := { s.inv with len := BitVec.ofNat 4 S.length, gcd := BitVec.ofNat 9 (chainGcd S) }
    chain := bufferOf S }

/-- INV_BX, INV_BY and INV_X of a raw pair (x_raw, y) modulo n (R106, R107). -/
def State.writeBezout (xRaw y : Int) (n : Nat) (s : State) : State :=
  { s with
    inv := { s.inv with bx := sext32 xRaw, by_ := sext32 y, x := BitVec.ofInt 8 (normalize xRaw n) } }

/-- INV's rule on its operands (R108). -/
def invRule (o : OperandRegs) (s : State) : State :=
  let m := o.invM.toNat
  let n := o.invN.toNat
  if inDomain m n then
    let S := chain m n
    let g := chainGcd S
    let s := s.writeChain S
    if g ≠ 1 then s.finish .notCoprime (zext32 g)
    else s.writeBezout (fold S).1 (fold S).2 n
  else s.finish .invalidDomain 0

/-- INV: modular inverse with coprimality detection (R108). -/
def execInv (s : State) : Host.Outcome State Fault Refusal := .next (s.complete .inv invRule)

end Sys2Proof.Machine
end

