-- ==== Sys2Proof/Machine/KnownPlaintext.lean ====
section
/-! DEFINITION. The known-plaintext equation solver: KPS and its stages (R120 to R132). The gcd of R10 is Lean's
`Nat.gcd`, for which `Nat.gcd 0 256 = 256`. -/

namespace Sys2Proof.Machine

/-- Two (plaintext, ciphertext) byte pairs (R122). -/
structure Samples where
  p1 : Nat
  c1 : Nat
  p2 : Nat
  c2 : Nat
  deriving DecidableEq, Repr

/-- The pairs as the host wrote them (R122). -/
def samplesOf (o : OperandRegs) : Samples :=
  { p1 := o.kpsP1.toNat, c1 := o.kpsC1.toNat, p2 := o.kpsP2.toNat, c2 := o.kpsC2.toNat }

/-- The pairs ordered so that the first plaintext byte is at least the second; kept when they are equal (R123). -/
def Samples.order (t : Samples) : Samples :=
  if t.p1 < t.p2 then { p1 := t.p2, c1 := t.c2, p2 := t.p1, c2 := t.c1 } else t

/-- Δp of ordered pairs (R124). -/
def Samples.dp (t : Samples) : Nat := modFloor ((t.p1 : Int) - (t.p2 : Int)) Config.nMod

/-- Δc of ordered pairs (R124). -/
def Samples.dc (t : Samples) : Nat := modFloor ((t.c1 : Int) - (t.c2 : Int)) Config.nMod

/-- What branch selection and its branch give: m, with RED set on the reduction branch, or the error raised there
(R125 to R127). -/
inductive BranchResult where
  | solved (m : Nat) (red : Bool)
  | raised (e : ErrKind)
  deriving DecidableEq, Repr

/-- The coprime branch (R126) and the reduction branch (R127), for g = gcd(Δp, 256). -/
def branch (dp dc g : Nat) : BranchResult :=
  if g = 1 then .solved (dc * (invCore dp Config.nMod).value % Config.nMod) false
  else if dc % g ≠ 0 then .raised .noSolution
  else if dp = 0 then .raised .invalidDomain
  else .solved (dc / g * (invCore (dp / g) (Config.nMod / g)).value % (Config.nMod / g)) true

/-- b = (c₁ − p₁·m) mod 256 (R128). -/
def Samples.offset (t : Samples) (m : Nat) : Nat :=
  modFloor ((t.c1 : Int) - (t.p1 : Int) * (m : Int)) Config.nMod

/-- KPS_DP, KPS_DC and KPS_G (R124, R125). -/
def State.writeDiffs (dp dc g : Nat) (s : State) : State :=
  { s with kps := { s.kps with dp := BitVec.ofNat 8 dp, dc := BitVec.ofNat 8 dc, g := BitVec.ofNat 9 g } }

/-- KPS_M, KPS_B and RED of a solved branch (R127, R128). -/
def State.writeSolution (m b : Nat) (red : Bool) (s : State) : State :=
  { s with
    kps := { s.kps with m := BitVec.ofNat 8 m, b := BitVec.ofNat 8 b }
    status := s.status.withRed red }

/-- The final inverse and the key (R129, R130). -/
def State.finalInverse (m b : Nat) (s : State) : State :=
  if m = 0 then s.finish .invalidDomain 0
  else if Nat.gcd m Config.nMod ≠ 1 then s.finish .notCoprime (zext32 (Nat.gcd m Config.nMod))
  else s.writeKey (invCore m Config.nMod).value b

/-- The stages from the ordered samples on (R124 to R130). -/
def solveRule (t : Samples) (s : State) : State :=
  let dp := t.dp
  let dc := t.dc
  let g := Nat.gcd dp Config.nMod
  let s := s.writeDiffs dp dc g
  match branch dp dc g with
  | .raised e => s.finish e 0
  | .solved m red => (s.writeSolution m (t.offset m) red).finalInverse m (t.offset m)

/-- KPS's rule on its operands (R131): the two length checks (R120, R121), then the solver. -/
def kpsRule (o : OperandRegs) (s : State) : State :=
  if o.kpsPlen ≠ o.kpsClen then s.finish .lengthMismatch 0
  else if o.kpsPlen.toNat < Config.minSamples then s.finish .insufficientSamples 0
  else solveRule (samplesOf o).order s

/-- KPS: known-plaintext key recovery (R131). -/
def execKps (s : State) : Host.Outcome State Fault Refusal := .next (s.complete .kps kpsRule)

end Sys2Proof.Machine
end

