-- ==== Sys2Proof/Machine/Transform.lean ====
section
/-! DEFINITION. The byte-wise affine decryption transform: Dec, and DEC (R140, R141). -/

namespace Sys2Proof.Machine

/-- `Dec(mi, b, c) = (mi · (c − b)) mod 256`, in integer arithmetic with the floor mod of R9 (R140). -/
def decByte (mi b c : Nat) : Nat := modFloor ((mi : Int) * ((c : Int) - (b : Int))) Config.nMod

/-- DEC's rule on its operands (R140). -/
def decRule (o : OperandRegs) (s : State) : State :=
  { s with decOut := BitVec.ofNat 8 (decByte o.keyMinv.toNat o.keyB.toNat o.decIn.toNat) }

/-- DEC: decrypt one byte (R140). -/
def execDec (s : State) : Host.Outcome State Fault Refusal := .next (s.complete .dec decRule)

end Sys2Proof.Machine
end

