-- ==== Sys2Proof/Machine/Search.lean ====
section
/-! DEFINITION. The exhaustive key-candidate validator: BFS and EKS (R150 to R156). -/

namespace Sys2Proof.Machine

/-- A key candidate (m⁻¹, b) (R14). -/
structure Candidate where
  mi : Nat
  b : Nat
  deriving DecidableEq, Repr

/-- `Match(mi, b)`: the candidate decrypts both header bytes to the signature (R150). -/
def isMatch (o : OperandRegs) (c : Candidate) : Bool :=
  decByte c.mi c.b o.srchH0.toNat == o.sig0.toNat && decByte c.mi c.b o.srchH1.toNat == o.sig1.toNat

/-- The m⁻¹ values BFS tries, 1 to 255 ascending (R150). -/
def allMinvs : List Nat := List.range' 1 255

/-- The m⁻¹ values EKS tries: those with gcd(mi, 256) = 1, the others skipped (R155). -/
def coprimeMinvs : List Nat := allMinvs.filter fun mi => Nat.gcd mi Config.nMod == 1

/-- The candidates of some m⁻¹ values: for each in order (outer), every b from 0 to 255 ascending (inner)
(R150). -/
def candidates (mis : List Nat) : List Candidate :=
  mis.flatMap fun mi => (List.range' 0 256).map fun b => { mi := mi, b := b }

/-- The loop of R150 and R155 from `count` on: each candidate is counted, the first match stops the loop. -/
def firstMatch (hit : Candidate → Bool) : List Candidate → (count : Nat) → Option Candidate × Nat
  | [], count => (none, count)
  | c :: rest, count => if hit c then (some c, count + 1) else firstMatch hit rest (count + 1)

/-- SRCH_CNT <- count (R43). -/
def State.writeCount (count : Nat) (s : State) : State := { s with srchCnt := BitVec.ofNat 16 count }

/-- STATUS.FOUND <- 1 (R150). -/
def State.setFound (s : State) : State := { s with status := s.status.withFound }

/-- The results of a search: the key and FOUND when found, the count always (R150, R155). -/
def State.writeSearch (result : Option Candidate × Nat) (s : State) : State :=
  match result with
  | (some c, count) => ((s.writeKey c.mi c.b).setFound).writeCount count
  | (none, count) => s.writeCount count

/-- A search over some m⁻¹ values (R150, R155). -/
def searchRule (mis : List Nat) (o : OperandRegs) (s : State) : State :=
  s.writeSearch (firstMatch (isMatch o) (candidates mis) 0)

/-- BFS's rule on its operands (R150). -/
def bfsRule (o : OperandRegs) (s : State) : State := searchRule allMinvs o s

/-- EKS's rule on its operands (R155). -/
def eksRule (o : OperandRegs) (s : State) : State := searchRule coprimeMinvs o s

/-- BFS: brute-force key search (R150). -/
def execBfs (s : State) : Host.Outcome State Fault Refusal := .next (s.complete .bfs bfsRule)

/-- EKS: exhaustive search over structurally valid keys (R155). -/
def execEks (s : State) : Host.Outcome State Fault Refusal := .next (s.complete .eks eksRule)

end Sys2Proof.Machine
end

