-- ==== Sys2Proof/Machine/Dispatch.lean ====
section
/-! DEFINITION. One arm per command (R82): the completion of a legal command word. -/

namespace Sys2Proof.Machine

def exec (i : Instr) (s : State) : Host.Outcome State Fault Refusal :=
  match i with
  | .inv => Sys2Proof.Machine.execInv s
  | .kps => Sys2Proof.Machine.execKps s
  | .dec => Sys2Proof.Machine.execDec s
  | .bfs => Sys2Proof.Machine.execBfs s
  | .eks => Sys2Proof.Machine.execEks s

end Sys2Proof.Machine
end

