-- ==== Sys2Proof/Machine/Engine.lean ====
section
/-! DEFINITION. The three agents' transitions (R6): the engine's completion (R176), the host's accesses (R61 to
R68), and reset (R200 to R204); and the order in which they happen (R180). -/

namespace Sys2Proof.Machine

/-- The engine's turn (R176): with a command pending it completes it, decoding the word of the snapshot (R81); with
none it has nothing to do. -/
def State.engineTurn (s : State) : Host.Outcome State Fault Refusal :=
  match s.pending with
  | none => .next s
  | some p =>
    match decode p.word with
    | .ok i => exec i s
    | .error _ => .next (s.completeIllegal p.word)

/-- One host access (R61 to R68). A write of fewer than four lanes is refused (R68, file 93). -/
def State.access (a : Access) (s : State) : Host.Outcome State Fault Refusal :=
  match a with
  | .read i => .next (s.reply (.word (s.regRead i)))
  | .write i v => .next (s.regWrite i v)
  | .laneRead addr lanes => .next (s.reply (laneReply lanes (s.regRead (indexOfAddr addr))))
  | .laneWrite addr lanes b3 b2 b1 b0 =>
    if lanes = BitVec.allOnes 4 then .next (s.regWrite (indexOfAddr addr) (wordOfLanes b3 b2 b1 b0))
    else .refused .subWordWrite

/-- Reset (R200, R203): every piece of the spec's state takes its reset value, busy or not. What the environment has
still to deliver and what the host has read are not the machine's, and stay. -/
def State.resetEvent (s : State) : State :=
  { State.reset with schedule := s.schedule, replies := s.replies }

/-- A host access while the reset input is held (R204): the machine is at its reset values, a write has no effect,
a read gives 0. A write of fewer than four lanes is refused as at any time (R68). -/
def State.accessInReset (a : Access) (s : State) : Host.Outcome State Fault Refusal :=
  match a with
  | .read _ => .next (s.resetEvent.reply (.word 0))
  | .write _ _ => .next s.resetEvent
  | .laneRead _ lanes => .next (s.resetEvent.reply (laneReply lanes 0))
  | .laneWrite _ lanes _ _ _ _ =>
    if lanes = BitVec.allOnes 4 then .next s.resetEvent else .refused .subWordWrite

/-- One event of the schedule (R180). -/
def State.event (e : Event) (s : State) : Host.Outcome State Fault Refusal :=
  match e with
  | .host a => s.access a
  | .engine => s.engineTurn
  | .reset => .next s.resetEvent
  | .hostInReset a => s.accessInReset a

/-- The next transition (R180): the next event of the schedule; with none left, the engine completes what is
pending (R215: T_CMD is finite) or the machine idles (R191). The reserved error code is a fault (R173). -/
def State.advance (s : State) : Host.Outcome State Fault Refusal :=
  if s.status.err = 7 then .fault .reservedErrCode
  else
    match s.schedule with
    | [] => s.engineTurn
    | e :: rest => { s with schedule := rest }.event e

/-- The state in which the word `w` over `nbits` bits is the pending command, accepted as a host write to CMD accepts
it (R63), and no event comes before its completion (log entry 3). -/
def State.loadCommand (nbits w : Nat) (s : State) : State :=
  { s.accept (tableWord nbits w) with schedule := [] }

end Sys2Proof.Machine
end

