-- ==== Sys2Proof/Machine/Step.lean ====
section
/-! DEFINITION. One step of the machine: one atomic transition of R180. -/

namespace Sys2Proof.Machine

/-- One atomic transition (R180). -/
def step (s : State) : Host.Outcome State Fault Refusal := s.advance

/-- `s` with the instruction stored where the next step takes its command from: the pending snapshot (R46, R75). -/
def State.withFetchWord (s : State) (nbits w : Nat) : State := s.loadCommand nbits w

end Sys2Proof.Machine
end

