-- ==== Sys2Proof/Machine/Script.lean ====
section
/-! DEFINITION. The host-script notation: what each statement and pseudo-statement stands for (R86, R87), a
statement's encoding triple (R86), and the host's loops over byte sequences (R77, R143). No part of the machine
uses this file: a host's program becomes a schedule of events with it. -/

namespace Sys2Proof.Machine

/-- A script's number as a register word. -/
def scriptWord (v : Nat) : Word := BitVec.ofNat 32 v

/-- `wr NAME, v`: RegWrite(offset(NAME)/4, v) (R86). -/
def wrEvent (r : RegId) (v : Nat) : Event := .host (.write (regIndex r) (scriptWord v))

/-- `rd NAME`: RegRead(offset(NAME)/4) (R86). -/
def rdEvent (r : RegId) : Event := .host (.read (regIndex r))

/-- A command by its mnemonic: RegWrite(3, its word) (R82, R86). -/
def issueEvent (i : Instr) : Event := .host (.write (regIndex .cmd) (encode i))

/-- `wait` (R87): reads of STATUS until BUSY reads 0. `polls` of them read BUSY = 1, then comes the completion,
then the read that ends the loop (R215, log entry 18). -/
def waitEvents (polls : Nat) : List Event :=
  List.replicate polls (rdEvent .status) ++ [.engine, rdEvent .status]

/-- The accesses of a statement (R86, R87), for a number of polls its `wait` makes while BUSY = 1. -/
def expandStmt (polls : Nat) : Stmt → List Event
  | .wr r v => [wrEvent r v]
  | .rd r => [rdEvent r]
  | .rdExpect r _ => [rdEvent r]
  | .issue i => [issueEvent i]
  | .cmd w => [wrEvent .cmd w]
  | .wait => waitEvents polls
  | .ack => [wrEvent .status 0x2]
  | .clrovr => [wrEvent .status 0x8]
  | .inv m n => [wrEvent .invM m, wrEvent .invN n, issueEvent .inv] ++ waitEvents polls
  | .kps p1 c1 p2 c2 len =>
    [wrEvent .kpsP1 p1, wrEvent .kpsC1 c1, wrEvent .kpsP2 p2, wrEvent .kpsC2 c2, wrEvent .kpsPlen len,
      wrEvent .kpsClen len, issueEvent .kps] ++ waitEvents polls
  | .dec c => [wrEvent .decIn c, issueEvent .dec] ++ waitEvents polls ++ [rdEvent .decOut]
  | .setkey mi b => [wrEvent .keyMinv mi, wrEvent .keyB b]
  | .bfs h0 h1 => [wrEvent .srchH0 h0, wrEvent .srchH1 h1, issueEvent .bfs] ++ waitEvents polls
  | .eks h0 h1 => [wrEvent .srchH0 h0, wrEvent .srchH1 h1, issueEvent .eks] ++ waitEvents polls
  | .sig s0 s1 => [wrEvent .sig0 s0, wrEvent .sig1 s1]

/-- What the script expects of a `rd NAME -> e`, against the word the read gave (R86). -/
def readAsExpected (got : Word) : Stmt → Bool
  | .rdExpect _ e => got == scriptWord e
  | _ => true

/-- A script: its statements in order, each with the number of its polls. -/
def expandScript (p : List (Stmt × Nat)) : List Event := p.flatMap fun st => expandStmt st.2 st.1

/-- A statement's encoding: the access, the byte offset and the data, none for a read (R86). -/
structure Triple where
  isWrite : Bool
  offset : Nat
  data : Option Word
  deriving DecidableEq, Repr

/-- The encoding triple of an access of R61. -/
def accessTriple : Access → Option Triple
  | .read i => some { isWrite := false, offset := 4 * i.val, data := none }
  | .write i v => some { isWrite := true, offset := 4 * i.val, data := some v }
  | .laneRead _ _ => none
  | .laneWrite _ _ _ _ _ _ => none

/-- The header a search needs, none for a ciphertext shorter than two bytes (R41, R77, 93). -/
def headerOf : List Byte → Option (Byte × Byte)
  | h0 :: h1 :: _ => some (h0, h1)
  | _ => none

/-- Decrypting a sequence: one `dec` per ciphertext byte, in order (R143). -/
def decryptAll (ciphertext : List Byte) : List Stmt := ciphertext.map fun c => .dec c.toNat

end Sys2Proof.Machine
end

