-- ==== Sys2Proof/Safety.lean ====
section
/-! DEFINITION. What a safe state and a correct host access are, and the words the claims are stated in: they are
written from the spec's tables and formulas, not from the model's own functions. -/

namespace Sys2Proof.Machine

/-! ## The register table of R22, as data for the claims -/

/-- The commands whose completion writes a register ("written by (completion)", R22). -/
def writtenBy : RegId → List Instr
  | .status => [.inv, .kps, .dec, .bfs, .eks]
  | .errinfo => [.inv, .kps, .dec, .bfs, .eks]
  | .invX => [.inv]
  | .invGcd => [.inv]
  | .invBX => [.inv]
  | .invBY => [.inv]
  | .chainLen => [.inv]
  | .chainA _ => [.inv]
  | .chainB _ => [.inv]
  | .kpsDP => [.kps]
  | .kpsDC => [.kps]
  | .kpsG => [.kps]
  | .kpsM => [.kps]
  | .kpsB => [.kps]
  | .keyMinv => [.kps, .bfs, .eks]
  | .keyB => [.kps, .bfs, .eks]
  | .decOut => [.dec]
  | .srchCnt => [.bfs, .eks]
  | .id | .ctrl | .cmd | .invM | .invN | .kpsP1 | .kpsC1 | .kpsP2 | .kpsC2 | .kpsPlen | .kpsClen => []
  | .decIn | .srchH0 | .srchH1 | .sig0 | .sig1 => []

/-- The bits a register stores ("stored", R22); all others read 0. -/
def storedMask : RegId → Word
  | .ctrl => 0x1
  | .status => 0xFFF
  | .invX => 0xFF
  | .invGcd => 0x1FF
  | .chainLen => 0xF
  | .kpsP1 | .kpsC1 | .kpsP2 | .kpsC2 => 0xFF
  | .kpsDP | .kpsDC | .kpsM | .kpsB => 0xFF
  | .kpsG => 0x1FF
  | .keyMinv | .keyB | .decIn | .decOut => 0xFF
  | .srchH0 | .srchH1 | .sig0 | .sig1 => 0xFF
  | .srchCnt => 0xFFFF
  | .chainA _ => 0x01FF01FF
  | .chainB _ => 0x01FF01FF
  | .id | .cmd | .errinfo | .invM | .invN | .invBX | .invBY | .kpsPlen | .kpsClen => 0xFFFFFFFF

/-- The word a register reads after reset ("reset", R22, R201). -/
def resetWord : RegId → Word
  | .id => 0x414B5245
  | .invN => 0x100
  | .sig0 => 0xFF
  | .sig1 => 0xD8
  | .ctrl | .status | .cmd | .errinfo => 0
  | .invM | .invX | .invGcd | .invBX | .invBY | .chainLen => 0
  | .kpsP1 | .kpsC1 | .kpsP2 | .kpsC2 | .kpsPlen | .kpsClen => 0
  | .kpsDP | .kpsDC | .kpsG | .kpsM | .kpsB => 0
  | .keyMinv | .keyB | .decIn | .decOut | .srchH0 | .srchH1 | .srchCnt => 0
  | .chainA _ | .chainB _ => 0

/-- The byte offset of a register ("offset", R22). -/
def offsetOf : RegId → Nat
  | .id => 0x00
  | .ctrl => 0x04
  | .status => 0x08
  | .cmd => 0x0C
  | .errinfo => 0x10
  | .invM => 0x14
  | .invN => 0x18
  | .invX => 0x1C
  | .invGcd => 0x20
  | .invBX => 0x24
  | .invBY => 0x28
  | .chainLen => 0x2C
  | .kpsP1 => 0x30
  | .kpsC1 => 0x34
  | .kpsP2 => 0x38
  | .kpsC2 => 0x3C
  | .kpsPlen => 0x40
  | .kpsClen => 0x44
  | .kpsDP => 0x48
  | .kpsDC => 0x4C
  | .kpsG => 0x50
  | .kpsM => 0x54
  | .kpsB => 0x58
  | .keyMinv => 0x5C
  | .keyB => 0x60
  | .decIn => 0x64
  | .decOut => 0x68
  | .srchH0 => 0x6C
  | .srchH1 => 0x70
  | .sig0 => 0x74
  | .sig1 => 0x78
  | .srchCnt => 0x7C
  | .chainA i => 0x80 + 8 * i.val
  | .chainB i => 0x84 + 8 * i.val

/-- The word indices of the read-only registers below the chain buffer: ID, ERRINFO, INV_X to CHAIN_LEN, KPS_DP to
KPS_B, DEC_OUT, SRCH_CNT (R22, R65). -/
def readOnlyIndices : List Nat := [0, 4, 7, 8, 9, 10, 11, 18, 19, 20, 21, 22, 26, 31]

/-- The word indices of the read-write registers: CTRL, INV_M, INV_N, KPS_P1 to KPS_CLEN, KEY_MINV, KEY_B, DEC_IN,
SRCH_H0 to SIG1 (R22). -/
def readWriteIndices : List Nat := [1, 5, 6, 12, 13, 14, 15, 16, 17, 23, 24, 25, 27, 28, 29, 30]

/-- The word w shows register r of state s: each field the spec gives the register stands at its bits of w, zeros
elsewhere (R22 to R25, R31 to R44; the bits of STATUS in R25, of the chain words in R44). -/
def State.Shows (s : State) (r : RegId) (w : Word) : Prop :=
  match r with
  | .id => w = 0x414B5245
  | .ctrl => w.getLsbD 0 = s.ctrlIE ∧ w.extractLsb 31 1 = 0
  | .status =>
    w.getLsbD 0 = s.status.busy ∧ w.getLsbD 1 = s.status.done ∧ w.getLsbD 2 = s.status.found ∧
      w.getLsbD 3 = s.status.ovr ∧ w.extractLsb 6 4 = s.status.err ∧ w.getLsbD 7 = s.status.red ∧
      w.extractLsb 11 8 = s.status.lastop ∧ w.extractLsb 31 12 = 0
  | .cmd => w = s.cmd
  | .errinfo => w = s.errinfo
  | .invM => w = s.ops.invM
  | .invN => w = s.ops.invN
  | .invX => w.toNat = s.inv.x.toNat
  | .invGcd => w.toNat = s.inv.gcd.toNat
  | .invBX => w.toInt = s.inv.bx.toInt
  | .invBY => w.toInt = s.inv.by_.toInt
  | .chainLen => w.toNat = s.inv.len.toNat
  | .kpsP1 => w.toNat = s.ops.kpsP1.toNat
  | .kpsC1 => w.toNat = s.ops.kpsC1.toNat
  | .kpsP2 => w.toNat = s.ops.kpsP2.toNat
  | .kpsC2 => w.toNat = s.ops.kpsC2.toNat
  | .kpsPlen => w = s.ops.kpsPlen
  | .kpsClen => w = s.ops.kpsClen
  | .kpsDP => w.toNat = s.kps.dp.toNat
  | .kpsDC => w.toNat = s.kps.dc.toNat
  | .kpsG => w.toNat = s.kps.g.toNat
  | .kpsM => w.toNat = s.kps.m.toNat
  | .kpsB => w.toNat = s.kps.b.toNat
  | .keyMinv => w.toNat = s.ops.keyMinv.toNat
  | .keyB => w.toNat = s.ops.keyB.toNat
  | .decIn => w.toNat = s.ops.decIn.toNat
  | .decOut => w.toNat = s.decOut.toNat
  | .srchH0 => w.toNat = s.ops.srchH0.toNat
  | .srchH1 => w.toNat = s.ops.srchH1.toNat
  | .sig0 => w.toNat = s.ops.sig0.toNat
  | .sig1 => w.toNat = s.ops.sig1.toNat
  | .srchCnt => w.toNat = s.srchCnt.toNat
  | .chainA i =>
    w.extractLsb 24 16 = s.chain[i].q ∧ w.extractLsb 8 0 = s.chain[i].p ∧
      w.extractLsb 31 25 = 0 ∧ w.extractLsb 15 9 = 0
  | .chainB i =>
    w.extractLsb 24 16 = s.chain[i].r ∧ w.extractLsb 8 0 = s.chain[i].k ∧
      w.extractLsb 31 25 = 0 ∧ w.extractLsb 15 9 = 0

/-! ## What a completion reports -/

/-- STATUS after a completion: BUSY 0, DONE 1, OVR as it was, and the given LASTOP, ERR, FOUND and RED (R29). -/
def Status.report (op : BitVec 4) (err : BitVec 3) (found red : Bool) (st : Status) : Status :=
  { busy := false, done := true, found := found, ovr := st.ovr, err := err, red := red, lastop := op }

/-- A state after a completion that wrote its report and nothing else: STATUS, ERRINFO, and pending none (R29,
R176). -/
def State.reported (op : BitVec 4) (err : BitVec 3) (info : Word) (found red : Bool) (s : State) : State :=
  { s with status := s.status.report op err found red, errinfo := info, pending := none }

/-! ## The arithmetic the claims speak of -/

/-- R100's domain: 1 ≤ n ≤ 256 and 1 ≤ m ≤ n − 1. -/
def InvDomain (m n : Nat) : Prop := 1 ≤ n ∧ n ≤ 256 ∧ 1 ≤ m ∧ m + 1 ≤ n

/-- INV's operands hold m and n. -/
def InvOperands (o : OperandRegs) (m n : Nat) : Prop := o.invM.toNat = m ∧ o.invN.toNat = n

/-- x is the inverse of m modulo n in [0, n). -/
def IsInverse (m n x : Nat) : Prop := x < n ∧ m * x % n = 1

/-- The lengths pass R120 and R121. -/
def KpsLengthsOk (o : OperandRegs) : Prop := o.kpsPlen = o.kpsClen ∧ 2 ≤ o.kpsPlen.toNat

/-- (p1, c1), (p2, c2) are KPS's two pairs, the one with the larger plaintext byte first, in the host's order when the
plaintext bytes are equal (R123). -/
def KpsPairs (o : OperandRegs) (p1 c1 p2 c2 : Nat) : Prop :=
  (p2 ≤ p1 ∧ o.kpsP1.toNat = p1 ∧ o.kpsC1.toNat = c1 ∧ o.kpsP2.toNat = p2 ∧ o.kpsC2.toNat = c2) ∨
  (p2 < p1 ∧ o.kpsP1.toNat = p2 ∧ o.kpsC1.toNat = c2 ∧ o.kpsP2.toNat = p1 ∧ o.kpsC2.toNat = c1)

/-- (a − b) mod 256 of two bytes. -/
def byteDiff (a b : Nat) : Nat := (a + 256 - b) % 256

/-- The key (mi, b) decrypts the byte c to the byte p: p = mi·(c − b) mod 256, in integers (R140). -/
def Decrypts (mi b c p : Nat) : Prop := ((mi : Int) * ((c : Int) - (b : Int))) % 256 = (p : Int)

/-- A candidate of BFS that matches: 1 ≤ mi ≤ 255, 0 ≤ b ≤ 255, and both header bytes decrypt to the signature
(R150). -/
def Matches (o : OperandRegs) (mi b : Nat) : Prop :=
  1 ≤ mi ∧ mi ≤ 255 ∧ b ≤ 255 ∧
    Decrypts mi b o.srchH0.toNat o.sig0.toNat ∧ Decrypts mi b o.srchH1.toNat o.sig1.toNat

/-- The lexicographic order of the searches: smaller m⁻¹ first, then smaller b (R150). -/
def KeyBefore (mi b mi' b' : Nat) : Prop := mi < mi' ∨ (mi = mi' ∧ b ≤ b')

/-! ## What a correct host does -/

/-- The access R210 item 3 asks of a host while a command runs: it reads STATUS, or writes STATUS. While none runs any
access is allowed. Byte lanes must be written whole (R68). -/
def hostObeys (s : State) : Access → Bool
  | .read i => !s.status.busy || i == 2
  | .write i _ => !s.status.busy || i == 2
  | .laneRead addr _ => !s.status.busy || addr.extractLsb 7 2 == (2 : BitVec 6)
  | .laneWrite addr lanes _ _ _ _ =>
    lanes == BitVec.allOnes 4 && (!s.status.busy || addr.extractLsb 7 2 == (2 : BitVec 6))

/-- The whole-word write an access makes, as index and word: RegWrite itself (R61), or a write of all four byte lanes,
lane j carrying bits [8j+7:8j] (R67), to the index A[7:2] (R68). -/
def wholeWordWrite : Access → Option (Fin 64 × Word)
  | .read _ => none
  | .write i v => some (i, v)
  | .laneRead _ _ => none
  | .laneWrite addr lanes b3 b2 b1 b0 =>
    if lanes = 0xF then some ((addr.extractLsb 7 2).toFin, b3 ++ b2 ++ b1 ++ b0) else none

/-! ## Invariants -/

/-- The control state is one the machine can be in: IDLE or BUSY (R21), the snapshot equal to CMD and to the live
operand registers (R31, R46), DONE clear while busy (R27), ERR not the reserved code (R173), and the flags and
ERRINFO as R25, R33, R48 and R170 tie them to the last command. -/
structure State.Consistent (s : State) : Prop where
  idle_or_busy : s.status.busy = s.pending.isSome
  snapshot_live : ∀ p, s.pending = some p → p.word = s.cmd ∧ p.ops = s.ops
  busy_not_done : s.status.busy = true → s.status.done = false
  err_not_reserved : s.status.err ≠ 7
  found_is_search : s.status.found = true → s.status.err = 0 ∧ (s.status.lastop = 4 ∨ s.status.lastop = 5)
  red_is_kps : s.status.red = true → s.status.lastop = 2 ∧ s.status.err ≠ 6
  err_of_inverse : s.status.err = 1 ∨ s.status.err = 2 → s.status.lastop = 1 ∨ s.status.lastop = 2
  err_of_kps : s.status.err = 3 ∨ s.status.err = 4 ∨ s.status.err = 5 → s.status.lastop = 2
  info_of_notCoprime : s.status.err = 2 → 2 ≤ s.errinfo.toNat ∧ s.errinfo.toNat ≤ 128
  info_of_illegal : s.status.err = 6 → legalWord s.errinfo = false ∧ s.errinfo.extractLsb 3 0 = s.status.lastop
  info_otherwise : s.status.err ≠ 2 → s.status.err ≠ 6 → s.errinfo = 0

/-- The result registers hold values in the ranges the spec gives (R35, R38, R43), or the reset values, and the chain
buffer holds one chain below CHAIN_LEN and zeros from there on (R44, R101, R102): every entry is a division step, the
entry after it divides its divisor by its remainder, and the remainder is 0 at the last entry alone. -/
structure State.ResultsInRange (s : State) : Prop where
  chain_len : s.inv.len.toNat ≤ 11
  gcd_range : s.inv.gcd.toNat ≤ 128
  bx_range : -127 ≤ s.inv.bx.toInt ∧ s.inv.bx.toInt ≤ 127
  by_range : -127 ≤ s.inv.by_.toInt ∧ s.inv.by_.toInt ≤ 127
  g_range : s.kps.g = 0 ∨ ∃ e : Fin 9, s.kps.g.toNat = 2 ^ e.val
  cnt_range : s.srchCnt.toNat ≤ 65280
  chain_step : ∀ i : Fin 11, i.val < s.inv.len.toNat →
    1 ≤ s.chain[i].p.toNat ∧ s.chain[i].p.toNat ≤ s.chain[i].q.toNat ∧
      s.chain[i].k.toNat = s.chain[i].q.toNat / s.chain[i].p.toNat ∧
      s.chain[i].r.toNat = s.chain[i].q.toNat % s.chain[i].p.toNat
  chain_next : ∀ i j : Fin 11, j.val = i.val + 1 → j.val < s.inv.len.toNat →
    s.chain[j].p = s.chain[i].r ∧ s.chain[j].q = s.chain[i].p
  chain_last : ∀ i : Fin 11, i.val < s.inv.len.toNat → (s.chain[i].r = 0 ↔ i.val + 1 = s.inv.len.toNat)
  chain_zero : ∀ i : Fin 11, s.inv.len.toNat ≤ i.val → s.chain[i] = ChainEntry.zero

end Sys2Proof.Machine
end

