-- ==== Sys2Proof/Certificates/Slice0/Obligations.lean ====
section
/-! DEFINITION. The statements about AKRE-256 for the provers. A docstring names the rule of spec/ a statement
formalises. `s.operands` is the operand snapshot of the accept (R46). A premise `s.status.err ≠ 7` rules out the states
R173 forbids; StepKeepsTheControlState says that no step reaches them. -/

open Sys2Proof Sys2Proof.Machine

/-! ## Encoding -/

/-- R80 to R82: a word decodes to a command exactly when it is that command's encoding, so decoding inverts encoding
and no bit of a word is dropped. -/
def Obligations.DecodeInvertsEncode : Prop :=
  ∀ (w : Word) (i : Instr), i.wellFormed = true ∧ decode w = .ok i ↔ w = encode i

/-- R81: the legal words are those with bits [31:4] zero and bits [3:0] one of 1 to 5. -/
def Obligations.LegalWordsAreFive : Prop :=
  ∀ w : Word, (∃ i, decode w = .ok i) ↔
    w.extractLsb 31 4 = 0 ∧ 1 ≤ (w.extractLsb 3 0).toNat ∧ (w.extractLsb 3 0).toNat ≤ 5

/-- R82, R84: words written out bit by bit from the opcode map, and one word of each illegal kind. -/
def Obligations.WrittenOutWordsDecode : Prop :=
  decode 0b00000000000000000000000000000001#32 = .ok .inv ∧
  decode 0b00000000000000000000000000000010#32 = .ok .kps ∧
  decode 0b00000000000000000000000000000011#32 = .ok .dec ∧
  decode 0b00000000000000000000000000000100#32 = .ok .bfs ∧
  decode 0b00000000000000000000000000000101#32 = .ok .eks ∧
  decode 0b00000000000000000000000000000000#32 = .error .opZero ∧
  decode 0b00000000000000000000000000000110#32 = .error .opUnassigned ∧
  decode 0b00000000000000000000000000010001#32 = .error .reservedBits

/-! ## The step and the completion -/

/-- THE MODEL'S CHOICE of how the order of R180 is given (log entries 1 and 2): a step takes the first event of the
schedule and does what the agent concerned does; with nothing scheduled the engine takes its turn; an engine's turn
with nothing pending changes nothing. -/
def Obligations.StepPerformsTheNextEvent : Prop :=
  ∀ s : State, s.status.err ≠ 7 →
    (s.schedule = [] → step s = s.engineTurn) ∧
    (∀ rest a, s.schedule = .host a :: rest → step s = ({ s with schedule := rest } : State).access a) ∧
    (∀ rest, s.schedule = .engine :: rest → step s = ({ s with schedule := rest } : State).engineTurn) ∧
    (∀ rest, s.schedule = .reset :: rest → step s = .next ({ s with schedule := rest } : State).resetEvent) ∧
    (∀ rest a, s.schedule = .hostInReset a :: rest →
      step s = ({ s with schedule := rest } : State).accessInReset a) ∧
    (s.pending = none → s.engineTurn = .next s)

/-- R81, R176: when the pending word decodes to i, the engine's turn is exec of i at that state, less the event taken.
THE MODEL'S CHOICE: the engine has the turn when the schedule's head says so (log entry 1) or when nothing is
scheduled (log entry 2). -/
def Obligations.StepRunsTheDecodedCommand : Prop :=
  ∀ (s : State) (p : Pending) (i : Instr), s.status.err ≠ 7 → s.pending = some p → decode p.word = .ok i →
    (s.schedule = [] → step s = exec i s) ∧
    (∀ rest, s.schedule = .engine :: rest → step s = exec i { s with schedule := rest })

/-- R172: the completion of an illegal word writes STATUS and ERRINFO as listed there, ends the pending command, and
changes nothing else. -/
def Obligations.IllegalWordReportsIllegalCommand : Prop :=
  ∀ (s : State) (p : Pending), s.pending = some p →
    ¬ (p.word.extractLsb 31 4 = 0 ∧ 1 ≤ (p.word.extractLsb 3 0).toNat ∧ (p.word.extractLsb 3 0).toNat ≤ 5) →
    s.engineTurn = .next (s.reported (p.word.extractLsb 3 0) 6 p.word false false)

/-- R26 to R29, R32, R175: every pending command, legal or not, completes: BUSY 0, DONE 1, LASTOP its OP, pending
none; OVR, CTRL, CMD and every operand register except the key stay. -/
def Obligations.EveryPendingCommandCompletes : Prop :=
  ∀ (s : State) (p : Pending), s.pending = some p →
    ∃ t, s.engineTurn = .next t ∧ t.pending = none ∧ t.status.busy = false ∧ t.status.done = true ∧
      t.status.lastop = p.word.extractLsb 3 0 ∧ t.status.ovr = s.status.ovr ∧ t.ctrlIE = s.ctrlIE ∧ t.cmd = s.cmd ∧
      t.ops = { s.ops with keyMinv := t.ops.keyMinv, keyB := t.ops.keyB } ∧
      t.schedule = s.schedule ∧ t.replies = s.replies

/-- R22 ("written by (completion)"), R83, R177: a completion changes no register that its command does not write. -/
def Obligations.CompletionWritesOnlyItsRegisters : Prop :=
  ∀ (i : Instr) (s t : State) (r : RegId), exec i s = .next t → i ∉ writtenBy r → t.readReg r = s.readReg r

/-- R48, which the spec marks as its own inference from R29, R100, R120, R150 and R170: the STATUS flags and ERRINFO
each command can leave, and IllegalCommand. -/
def Obligations.FlagsByCommand : Prop :=
  (∀ s t : State, exec .inv s = .next t →
    (t.status.err = 0 ∨ t.status.err = 1 ∨ t.status.err = 2) ∧ t.status.found = false ∧ t.status.red = false ∧
      (t.errinfo = 0 ∨ t.errinfo = t.inv.gcd.setWidth 32)) ∧
  (∀ s t : State, exec .kps s = .next t →
    t.status.err.toNat ≤ 5 ∧ t.status.found = false ∧
      (t.errinfo = 0 ∨ t.errinfo = BitVec.ofNat 32 (Nat.gcd t.kps.m.toNat 256))) ∧
  (∀ s t : State, exec .dec s = .next t →
    t.status.err = 0 ∧ t.status.found = false ∧ t.status.red = false ∧ t.errinfo = 0) ∧
  (∀ s t : State, exec .bfs s = .next t ∨ exec .eks s = .next t →
    t.status.err = 0 ∧ t.status.red = false ∧ t.errinfo = 0) ∧
  (∀ (s : State) (w : Word), (s.completeIllegal w).status.err = 6 ∧ (s.completeIllegal w).status.found = false ∧
    (s.completeIllegal w).status.red = false ∧ (s.completeIllegal w).errinfo = w)

/-! ## INV -/

/-- R100: outside 1 ≤ n ≤ 256, 1 ≤ m ≤ n − 1 INV reports InvalidDomain and writes nothing else; inside it never
does. -/
def Obligations.InvChecksItsDomain : Prop :=
  ∀ (s : State) (m n : Nat), InvOperands s.operands m n →
    (¬ InvDomain m n → exec .inv s = .next (s.reported 1 1 0 false false)) ∧
    (InvDomain m n → ∃ t, exec .inv s = .next t ∧ t.status.err ≠ 1)

/-- R105: when gcd(m, n) ≠ 1 INV reports NotCoprime with the gcd, with the chain and INV_GCD written and INV_X, INV_BX
and INV_BY kept; for n = 256 that is when m is even, and the gcd is the largest power of two dividing m. -/
def Obligations.InvReportsNotCoprime : Prop :=
  (∀ (s : State) (m n : Nat), InvOperands s.operands m n → InvDomain m n → Nat.gcd m n ≠ 1 →
    exec .inv s = .next { s.reported 1 2 (BitVec.ofNat 32 (Nat.gcd m n)) false false with
      inv := { s.inv with
        gcd := BitVec.ofNat 9 (Nat.gcd m n), len := BitVec.ofNat 4 (chain m n).length }
      chain := bufferOf (chain m n) }) ∧
  (∀ m : Nat, 1 ≤ m → m ≤ 255 → (Nat.gcd m 256 ≠ 1 ↔ m % 2 = 0) ∧
    (∃ j, Nat.gcd m 256 = 2 ^ j) ∧ Nat.gcd m 256 ∣ m ∧ ¬ 2 * Nat.gcd m 256 ∣ m)

/-- R106 to R108: when gcd(m, n) = 1 INV writes the raw Bezout pair (x, y), which is the fold of the chain
(BezoutAtEveryFoldStep gives the fold's own steps) with m·x + n·y = 1 and |x|, |y| ≤ 127, the normalized x, which is
the inverse of m in [0, n), the gcd 1 and the chain, reports no error, and changes nothing else. -/
def Obligations.InvWritesTheInverse : Prop :=
  ∀ (s : State) (m n : Nat), InvOperands s.operands m n → InvDomain m n → Nat.gcd m n = 1 →
    ∃ (x y : Int) (z : Nat), fold (chain m n) = (x, y) ∧ (m : Int) * x + (n : Int) * y = 1 ∧
      -127 ≤ x ∧ x ≤ 127 ∧ -127 ≤ y ∧ y ≤ 127 ∧
      IsInverse m n z ∧ (z : Int) = (if x < 0 then x + (n : Int) else x) ∧
      exec .inv s = .next { s.reported 1 0 0 false false with
        inv := { x := BitVec.ofNat 8 z, gcd := 1, bx := BitVec.ofInt 32 x, by_ := BitVec.ofInt 32 y,
                 len := BitVec.ofNat 4 (chain m n).length }
        chain := bufferOf (chain m n) }

/-- R101: the chain starts at (m, n); each step divides, q by p; the next divides the old divisor by the old
remainder; it ends at the first remainder 0. -/
def Obligations.ChainIsTheDivisionPass : Prop :=
  ∀ m n : Nat, InvDomain m n →
    (∃ st, (chain m n)[0]? = some st ∧ st.p = m ∧ st.q = n) ∧
    (∀ (j : Nat) (st : ModuloStep), (chain m n)[j]? = some st →
      1 ≤ st.p ∧ st.p ≤ st.q ∧ st.k = st.q / st.p ∧ st.r = st.q % st.p ∧
      (st.r = 0 ↔ j + 1 = (chain m n).length) ∧
      (∀ st', (chain m n)[j + 1]? = some st' → st'.p = st.r ∧ st'.q = st.p))

/-- R102: past its domain check, coprime or not, INV leaves CHAIN_LEN = L, the chain's steps in entries 0 to L − 1,
and zeros in the entries from L on. -/
def Obligations.ChainBufferHoldsTheChain : Prop :=
  ∀ (s : State) (m n : Nat), InvOperands s.operands m n → InvDomain m n →
    ∃ t, exec .inv s = .next t ∧ t.inv.len.toNat = (chain m n).length ∧
      ∀ i : Fin 11,
        (∀ st, (chain m n)[i.val]? = some st → t.chain[i].p.toNat = st.p ∧ t.chain[i].q.toNat = st.q ∧
          t.chain[i].k.toNat = st.k ∧ t.chain[i].r.toNat = st.r) ∧
        ((chain m n).length ≤ i.val → t.chain[i] = { p := 0, q := 0, k := 0, r := 0 })

/-- R103, which the spec marks as its own inference from R100 and R101: the chain's bounds over the whole domain. -/
def Obligations.ChainBounds : Prop :=
  (∀ m n : Nat, InvDomain m n →
    1 ≤ (chain m n).length ∧ (chain m n).length ≤ 11 ∧
    ((chain m n).length = 11 ↔ m = 144 ∧ n = 233) ∧
    (n = 256 → (chain m n).length ≤ 9 ∧ ((chain m n).length = 9 ↔ m ∈ [158, 159, 161, 162])) ∧
    (∀ st ∈ chain m n, st.p ≤ 255 ∧ st.r ≤ 255 ∧ st.q ≤ 256 ∧ st.k ≤ 256) ∧
    (∀ (j : Nat) (st st' : ModuloStep), (chain m n)[j]? = some st → (chain m n)[j + 1]? = some st' →
      1 ≤ st'.p ∧ st'.p < st.p)) ∧
  chain 1 256 = [{ p := 1, q := 256, k := 256, r := 0 }]

/-- R104: INV_GCD is the p of the chain's last step, which is gcd(m, n); with two or more steps it is the r of the
step before, with one step it is m; for (128, 256) there is one step and it is 128. -/
def Obligations.InvGcdIsTheLastDivisor : Prop :=
  (∀ (s : State) (m n : Nat), InvOperands s.operands m n → InvDomain m n →
    ∃ t, exec .inv s = .next t ∧ t.inv.gcd.toNat = Nat.gcd m n ∧
      (∀ st, (chain m n)[(chain m n).length - 1]? = some st → st.p = Nat.gcd m n) ∧
      (∀ st, 2 ≤ (chain m n).length → (chain m n)[(chain m n).length - 2]? = some st → st.r = Nat.gcd m n) ∧
      ((chain m n).length = 1 → m = Nat.gcd m n)) ∧
  (chain 128 256).length = 1 ∧ Nat.gcd 128 256 = 128

/-- R106, and R110 item 4, which the spec marks as its own inference: the fold holds (1, 0) at the last step and, at a
step before it, (b − k·a, a) for the pair (a, b) of the step after; at every step its pair combines the step's p and q
to the gcd, coprime or not. -/
def Obligations.BezoutAtEveryFoldStep : Prop :=
  ∀ (m n : Nat), InvDomain m n → ∀ (j : Nat) (st : ModuloStep), (chain m n)[j]? = some st →
    (j + 1 = (chain m n).length → fold ((chain m n).drop j) = (1, 0)) ∧
    (j + 1 < (chain m n).length → ∀ a b : Int, fold ((chain m n).drop (j + 1)) = (a, b) →
      fold ((chain m n).drop j) = (b - (st.k : Int) * a, a)) ∧
    (fold ((chain m n).drop j)).1 * (st.p : Int) + (fold ((chain m n).drop j)).2 * (st.q : Int) =
      (Nat.gcd m n : Int)

/-- R107, and R110 items 1 and 2, which the spec marks as its own inference: InvCore returns the inverse of m in [0,
n), which is the only one, or NotCoprime with the gcd; modulo 256 it is its own inverse on the odd bytes. -/
def Obligations.InvCoreIsTheInverse : Prop :=
  (∀ m n : Nat, InvDomain m n →
    (Nat.gcd m n = 1 → ∃ x, invCore m n = .ok x ∧ IsInverse m n x ∧ ∀ y, IsInverse m n y → y = x) ∧
    (Nat.gcd m n ≠ 1 → invCore m n = .notCoprime (Nat.gcd m n))) ∧
  (∀ m x : Nat, m ≤ 255 → m % 2 = 1 → invCore m 256 = .ok x → invCore x 256 = .ok m)

/-- R110 item 5, which the spec marks as its own inference: two INVs with equal operands leave equal results, whatever
else the two states hold. -/
def Obligations.InvDependsOnItsOperands : Prop :=
  ∀ s s' t t' : State, s.operands.invM = s'.operands.invM → s.operands.invN = s'.operands.invN →
    exec .inv s = .next t → exec .inv s' = .next t' →
    t.status.err = t'.status.err ∧ t.errinfo = t'.errinfo ∧
    (t.status.err ≠ 1 → t.inv.gcd = t'.inv.gcd ∧ t.inv.len = t'.inv.len ∧ t.chain = t'.chain) ∧
    (t.status.err = 0 → t.inv = t'.inv)

/-! ## KPS -/

/-- R120, R121: unequal lengths report LengthMismatch, short or not, and equal lengths below 2 InsufficientSamples;
nothing else is written. -/
def Obligations.KpsChecksTheLengths : Prop :=
  ∀ s : State,
    (s.operands.kpsPlen ≠ s.operands.kpsClen → exec .kps s = .next (s.reported 2 3 0 false false)) ∧
    (s.operands.kpsPlen = s.operands.kpsClen → s.operands.kpsPlen.toNat < 2 →
      exec .kps s = .next (s.reported 2 4 0 false false))

/-- R124, R125, R127: when g = gcd(Δp, 256) does not divide Δc, KPS reports NoSolution with Δp, Δc and g written and
nothing else; two equal pairs report InvalidDomain with Δp = Δc = 0 and g = 256 written and nothing else. -/
def Obligations.KpsReportsUnsolvable : Prop :=
  (∀ (s : State) (p1 c1 p2 c2 : Nat), KpsLengthsOk s.operands → KpsPairs s.operands p1 c1 p2 c2 →
    byteDiff c1 c2 % Nat.gcd (p1 - p2) 256 ≠ 0 →
    exec .kps s = .next { s.reported 2 5 0 false false with
      kps := { s.kps with
        dp := BitVec.ofNat 8 (p1 - p2), dc := BitVec.ofNat 8 (byteDiff c1 c2)
        g := BitVec.ofNat 9 (Nat.gcd (p1 - p2) 256) } }) ∧
  (∀ s : State, KpsLengthsOk s.operands → s.operands.kpsP1 = s.operands.kpsP2 →
    s.operands.kpsC1 = s.operands.kpsC2 →
    exec .kps s = .next { s.reported 2 1 0 false false with kps := { s.kps with dp := 0, dc := 0, g := 256 } })

/-- R124 to R130: with unequal plaintext bytes and Δc a multiple of g, there is one m below 256/g with m·Δp ≡ Δc; KPS
writes Δp, Δc, g, m, b = c₁ − p₁·m and RED (g ≠ 1), and reports InvalidDomain for m = 0, NotCoprime with gcd(m, 256)
for another even m, the key left alone, and otherwise no error with the key (m⁻¹, b). -/
def Obligations.KpsSolvesTheCongruence : Prop :=
  ∀ (s : State) (p1 c1 p2 c2 : Nat), KpsLengthsOk s.operands → KpsPairs s.operands p1 c1 p2 c2 → p2 < p1 →
    byteDiff c1 c2 % Nat.gcd (p1 - p2) 256 = 0 →
    ∃ m, m < 256 / Nat.gcd (p1 - p2) 256 ∧ m * (p1 - p2) % 256 = byteDiff c1 c2 ∧
      (∀ m', m' < 256 / Nat.gcd (p1 - p2) 256 → m' * (p1 - p2) % 256 = byteDiff c1 c2 → m' = m) ∧
      let red := decide (Nat.gcd (p1 - p2) 256 ≠ 1)
      let b := byteDiff c1 (p1 * m % 256)
      let kps : KpsRegs :=
        { dp := BitVec.ofNat 8 (p1 - p2), dc := BitVec.ofNat 8 (byteDiff c1 c2)
          g := BitVec.ofNat 9 (Nat.gcd (p1 - p2) 256), m := BitVec.ofNat 8 m, b := BitVec.ofNat 8 b }
      (m = 0 → exec .kps s = .next { s.reported 2 1 0 false red with kps := kps }) ∧
      (m ≠ 0 → Nat.gcd m 256 ≠ 1 →
        exec .kps s = .next { s.reported 2 2 (BitVec.ofNat 32 (Nat.gcd m 256)) false red with kps := kps }) ∧
      (Nat.gcd m 256 = 1 → ∃ x, IsInverse m 256 x ∧
        exec .kps s = .next { s.reported 2 0 0 false red with
          kps := kps
          ops := { s.ops with keyMinv := BitVec.ofNat 8 x, keyB := BitVec.ofNat 8 b } })

/-- R133 item 1, which the spec marks as its own inference: from two samples of an odd key (m, b) whose plaintext
bytes differ by an odd amount, KPS recovers exactly m, its inverse and b, with no error and RED = 0. -/
def Obligations.KpsRecoversAnOddKey : Prop :=
  ∀ (s : State) (m b : Nat), m ≤ 255 → m % 2 = 1 → b ≤ 255 → KpsLengthsOk s.operands →
    (s.operands.kpsP1.toNat + s.operands.kpsP2.toNat) % 2 = 1 →
    s.operands.kpsC1.toNat = (m * s.operands.kpsP1.toNat + b) % 256 →
    s.operands.kpsC2.toNat = (m * s.operands.kpsP2.toNat + b) % 256 →
    ∃ t x, invCore m 256 = .ok x ∧ exec .kps s = .next t ∧ t.status.err = 0 ∧ t.status.red = false ∧
      t.kps.m.toNat = m ∧ t.ops.keyMinv.toNat = x ∧ t.ops.keyB.toNat = b

/-- R133 item 3, which the spec marks as its own inference: whenever KPS reports no error, both samples satisfy c =
m·p + b with KPS_M and KEY_B, reduction branch or not, and KEY_MINV is the inverse of KPS_M. -/
def Obligations.KpsSuccessFitsTheSamples : Prop :=
  ∀ s t : State, exec .kps s = .next t → t.status.err = 0 →
    (t.kps.m.toNat * s.operands.kpsP1.toNat + t.ops.keyB.toNat) % 256 = s.operands.kpsC1.toNat ∧
    (t.kps.m.toNat * s.operands.kpsP2.toNat + t.ops.keyB.toNat) % 256 = s.operands.kpsC2.toNat ∧
    t.kps.m.toNat * t.ops.keyMinv.toNat % 256 = 1 ∧ t.kps.b = t.ops.keyB

/-- R133 item 4, which the spec marks as its own inference: on the reduction branch every m' ≡ KPS_M modulo 256/g fits
both samples with some offset. -/
def Obligations.KpsReductionIsUnderdetermined : Prop :=
  ∀ s t : State, exec .kps s = .next t → t.status.red = true →
    ∀ m', m' ≤ 255 → m' % (256 / t.kps.g.toNat) = t.kps.m.toNat % (256 / t.kps.g.toNat) →
      ∃ b', b' ≤ 255 ∧ (m' * s.operands.kpsP1.toNat + b') % 256 = s.operands.kpsC1.toNat ∧
        (m' * s.operands.kpsP2.toNat + b') % 256 = s.operands.kpsC2.toNat

/-- R133 item 5, which the spec marks as its own inference: where the congruence is solvable, KPS fails at its final
inverse exactly when every m' that fits the samples is even. -/
def Obligations.KpsFinalFailureMeansEvenKeys : Prop :=
  ∀ (s : State) (p1 c1 p2 c2 : Nat), KpsLengthsOk s.operands → KpsPairs s.operands p1 c1 p2 c2 → p2 < p1 →
    byteDiff c1 c2 % Nat.gcd (p1 - p2) 256 = 0 →
    ∃ t, exec .kps s = .next t ∧
      (t.status.err = 1 ∨ t.status.err = 2 ↔
        ∀ m', m' ≤ 255 → m' * (p1 - p2) % 256 = byteDiff c1 c2 → m' % 2 = 0)

/-- R123, and R133 item 2, which the spec marks as its own inference: the order in which the host gives two pairs with
different plaintext bytes changes nothing at all; with equal plaintext bytes it can change only KPS_DC, and where the
ciphertext bytes differ the outcome is NoSolution both ways. -/
def Obligations.KpsPairOrderDoesNotMatter : Prop :=
  ∀ (s : State) (w : Word) (o : OperandRegs),
    let o' : OperandRegs := { o with kpsP1 := o.kpsP2, kpsC1 := o.kpsC2, kpsP2 := o.kpsP1, kpsC2 := o.kpsC1 }
    let s1 : State := { s with pending := some { word := w, ops := o } }
    let s2 : State := { s with pending := some { word := w, ops := o' } }
    (o.kpsP1 ≠ o.kpsP2 → exec .kps s1 = exec .kps s2) ∧
    (o.kpsP1 = o.kpsP2 → ∃ t1 t2, exec .kps s1 = .next t1 ∧ exec .kps s2 = .next t2 ∧
      t2 = { t1 with kps := { t1.kps with dc := t2.kps.dc } } ∧
      (KpsLengthsOk o → o.kpsC1 ≠ o.kpsC2 → t1.status.err = 5 ∧ t2.status.err = 5))

/-- R129, R131, R211: a KPS that reports an error leaves KEY_MINV and KEY_B, and every operand register, as they
were. -/
def Obligations.KpsFailureKeepsTheKey : Prop :=
  ∀ s t : State, exec .kps s = .next t → t.status.err ≠ 0 → t.ops = s.ops

/-! ## DEC -/

/-- R140: DEC writes mi·(c − b) mod 256 to DEC_OUT, which is the low 8 bits of the byte product (R140's sentence "An
implementation may compute it", which the spec marks as its own inference), reports no error, and changes nothing
else. -/
def Obligations.DecDecryptsTheByte : Prop :=
  ∀ s : State,
    exec .dec s = .next { s.reported 3 0 0 false false with
      decOut := BitVec.ofInt 8 (((s.operands.keyMinv.toNat : Int) *
        ((s.operands.decIn.toNat : Int) - (s.operands.keyB.toNat : Int))) % 256) } ∧
    exec .dec s = .next { s.reported 3 0 0 false false with
      decOut := s.operands.keyMinv * (s.operands.decIn - s.operands.keyB) }

/-- R142 item 1, which the spec marks as its own inference: DEC with the inverse of an odd m and with b undoes the
encryption m·P + b of every byte P. -/
def Obligations.DecUndoesEncryption : Prop :=
  ∀ (s : State) (m b P : Nat), m ≤ 255 → m % 2 = 1 → b ≤ 255 → P ≤ 255 →
    invCore m 256 = .ok s.operands.keyMinv.toNat → s.operands.keyB.toNat = b →
    s.operands.decIn.toNat = (m * P + b) % 256 →
    ∃ t, exec .dec s = .next t ∧ t.decOut.toNat = P

/-- R142 item 2, which the spec marks as its own inference: for an odd mi the transform is a bijection of the bytes;
for an even mi it is not, and every output is a multiple of gcd(mi, 256). -/
def Obligations.DecIsABijectionForOddKeys : Prop :=
  ∀ mi b : Byte,
    (mi.toNat % 2 = 1 → Function.Bijective fun c : Byte => BitVec.ofNat 8 (decByte mi.toNat b.toNat c.toNat)) ∧
    (mi.toNat % 2 = 0 →
      ¬ Function.Bijective (fun c : Byte => BitVec.ofNat 8 (decByte mi.toNat b.toNat c.toNat)) ∧
      ∀ c : Byte, Nat.gcd mi.toNat 256 ∣ decByte mi.toNat b.toNat c.toNat)

/-! ## BFS and EKS -/

/-- R150, and for the count R156, which the spec marks as its own inference: BFS finds the first matching (mi, b) in
the order of mi, then b, over mi 1 to 255: it writes the key, FOUND and the count (mi − 1)·256 + b + 1; with no match
it writes the count 65 280 and keeps the key. It reports no error and changes nothing else. -/
def Obligations.BfsFindsTheFirstKey : Prop :=
  ∀ s : State,
    (∀ mi b : Nat, Matches s.operands mi b → (∀ mi' b', Matches s.operands mi' b' → KeyBefore mi b mi' b') →
      exec .bfs s = .next { s.reported 4 0 0 true false with
        ops := { s.ops with keyMinv := BitVec.ofNat 8 mi, keyB := BitVec.ofNat 8 b }
        srchCnt := BitVec.ofNat 16 ((mi - 1) * 256 + b + 1) }) ∧
    ((∀ mi b : Nat, ¬ Matches s.operands mi b) →
      exec .bfs s = .next { s.reported 4 0 0 false false with srchCnt := 65280 })

/-- R155, and for the count R156, which the spec marks as its own inference: EKS does the same over the odd mi only,
with the count ((mi − 1)/2)·256 + b + 1, and 32 768 with no match. -/
def Obligations.EksFindsTheFirstOddKey : Prop :=
  ∀ s : State,
    (∀ mi b : Nat, Matches s.operands mi b → mi % 2 = 1 →
      (∀ mi' b', Matches s.operands mi' b' → mi' % 2 = 1 → KeyBefore mi b mi' b') →
      exec .eks s = .next { s.reported 5 0 0 true false with
        ops := { s.ops with keyMinv := BitVec.ofNat 8 mi, keyB := BitVec.ofNat 8 b }
        srchCnt := BitVec.ofNat 16 ((mi - 1) / 2 * 256 + b + 1) }) ∧
    ((∀ mi b : Nat, Matches s.operands mi b → mi % 2 = 0) →
      exec .eks s = .next { s.reported 5 0 0 false false with srchCnt := 32768 })

/-- R157, which the spec marks as its own inference: on the same operands EKS gives BFS's result when BFS finds an odd
m⁻¹, and not-found, with the key kept, when BFS finds an even one or nothing. -/
def Obligations.EksAgreesWithBfs : Prop :=
  ∀ s t u : State, exec .bfs s = .next t → exec .eks s = .next u →
    (t.status.found = true → t.ops.keyMinv.toNat % 2 = 1 → u.status.found = true ∧ u.ops = t.ops) ∧
    (t.status.found = false ∨ t.ops.keyMinv.toNat % 2 = 0 ∧ t.status.found = true →
      u.status.found = false ∧ u.ops = s.ops)

/-- R152, which the spec marks as its own inference from R150: with Δs odd a match needs mi and D odd, and for D odd
exactly one pair matches, by the closed form; so with the default signature BFS finds a key exactly when h0 − h1 is
odd, and it is odd; an even mi matches only if both signature bytes are even. -/
def Obligations.SearchKeyIsUniqueForOddDifference : Prop :=
  (∀ o : OperandRegs, byteDiff o.sig0.toNat o.sig1.toNat % 2 = 1 →
    (∀ mi b, Matches o mi b → mi % 2 = 1 ∧ byteDiff o.srchH0.toNat o.srchH1.toNat % 2 = 1) ∧
    (byteDiff o.srchH0.toNat o.srchH1.toNat % 2 = 1 →
      ∃ x y, invCore (byteDiff o.srchH0.toNat o.srchH1.toNat) 256 = .ok x ∧
        invCore (byteDiff o.sig0.toNat o.sig1.toNat * x % 256) 256 = .ok y ∧
        ∀ mi b, Matches o mi b ↔
          mi = byteDiff o.sig0.toNat o.sig1.toNat * x % 256 ∧
            b = byteDiff o.srchH0.toNat (o.sig0.toNat * y % 256))) ∧
  (∀ s : State, s.operands.sig0 = 0xFF → s.operands.sig1 = 0xD8 →
    ∃ t, exec .bfs s = .next t ∧
      (t.status.found = true ↔ byteDiff s.operands.srchH0.toNat s.operands.srchH1.toNat % 2 = 1) ∧
      (t.status.found = true → t.ops.keyMinv.toNat % 2 = 1)) ∧
  (∀ (o : OperandRegs) (mi b : Nat), Matches o mi b → mi % 2 = 0 → o.sig0.toNat % 2 = 0 ∧ o.sig1.toNat % 2 = 0)

/-- R158, which the spec marks as its own inference from R150 and R155: BFS and EKS are functions of the two header
bytes and the two signature bytes, whatever else the two states hold, the key among it. -/
def Obligations.SearchDependsOnHeaderAndSignature : Prop :=
  ∀ (i : Instr) (s s' t t' : State), i = .bfs ∨ i = .eks →
    s.operands.srchH0 = s'.operands.srchH0 → s.operands.srchH1 = s'.operands.srchH1 →
    s.operands.sig0 = s'.operands.sig0 → s.operands.sig1 = s'.operands.sig1 →
    exec i s = .next t → exec i s' = .next t' →
    t.status.found = t'.status.found ∧ t.srchCnt = t'.srchCnt ∧
    (t.status.found = true → t.ops.keyMinv = t'.ops.keyMinv ∧ t.ops.keyB = t'.ops.keyB)

/-- R159, which the spec marks as its own inference: with the default signature, BFS and EKS on the encrypted
signature of an odd key (m, b) both find (InvCore(m, 256), b), and DEC with that key gives the signature back. -/
def Obligations.SearchRecoversTheEncryptingKey : Prop :=
  ∀ (s : State) (m b x : Nat), m ≤ 255 → m % 2 = 1 → b ≤ 255 → invCore m 256 = .ok x →
    s.operands.sig0 = 0xFF → s.operands.sig1 = 0xD8 →
    s.operands.srchH0.toNat = (m * 0xFF + b) % 256 → s.operands.srchH1.toNat = (m * 0xD8 + b) % 256 →
    (∀ i : Instr, i = .bfs ∨ i = .eks → ∃ t, exec i s = .next t ∧ t.status.found = true ∧
      t.ops.keyMinv.toNat = x ∧ t.ops.keyB.toNat = b) ∧
    (∀ u : State, u.operands.keyMinv.toNat = x → u.operands.keyB.toNat = b →
      (u.operands.decIn = s.operands.srchH0 → ∃ v, exec .dec u = .next v ∧ v.decOut = 0xFF) ∧
      (u.operands.decIn = s.operands.srchH1 → ∃ v, exec .dec u = .next v ∧ v.decOut = 0xD8))

/-! ## Host accesses -/

/-- R22, R61: the register at index i is the one at byte offset 4·i; offsets 0xD8 to 0xFC are unmapped. -/
def Obligations.RegisterOffsets : Prop :=
  ∀ i : Fin 64, (∀ r : RegId, regAt i = some r ↔ 4 * i.val = offsetOf r) ∧
    (regAt i = none ↔ 0xD8 ≤ 4 * i.val)

/-- R63: a write to CMD while BUSY = 0 stores the word, sets BUSY, clears DONE and takes the snapshot, for any word,
and changes nothing else; a word that encodes no command completes with IllegalCommand. -/
def Obligations.CmdWriteIsAnAccept : Prop :=
  ∀ (s : State) (w : Word), s.status.busy = false →
    s.regWrite 3 w = { s with
      cmd := w
      status := { s.status with busy := true, done := false }
      pending := some { word := w, ops := s.ops } } ∧
    ((∀ i, w ≠ encode i) → ∃ t, (s.regWrite 3 w).engineTurn = .next t ∧ t.status.err = 6 ∧ t.errinfo = w)

/-- R30, R64: a write to STATUS clears DONE by bit 1 and OVR by bit 3, busy or not, and does nothing else; any other
write while busy, to CMD and to unmapped indices among them, sets OVR and does nothing else. -/
def Obligations.StatusWritesAndBusyWrites : Prop :=
  ∀ (s : State) (v : Word),
    s.regWrite 2 v = { s with status := { s.status with
      done := s.status.done && !v.getLsbD 1
      ovr := s.status.ovr && !v.getLsbD 3 } } ∧
    (∀ i : Fin 64, i ≠ 2 → s.status.busy = true →
      s.regWrite i v = { s with status := { s.status with ovr := true } })

/-- R65: while BUSY = 0 a write to a read-only register or to an unmapped index changes nothing: no OVR, no error. -/
def Obligations.ReadOnlyWritesDoNothing : Prop :=
  ∀ (s : State) (i : Fin 64) (v : Word), s.status.busy = false →
    i.val ∈ readOnlyIndices ∨ 32 ≤ i.val → s.regWrite i v = s

/-- R45, R62: while BUSY = 0 a write to a read-write register keeps its stored bits, which it then reads with zeros
above; every other register of the window reads as before and no command starts. -/
def Obligations.ReadWriteRegistersKeepStoredBits : Prop :=
  ∀ (s : State) (i : Fin 64) (r : RegId) (v : Word), s.status.busy = false → i.val ∈ readWriteIndices →
    4 * i.val = offsetOf r →
    (s.regWrite i v).regRead i = v &&& storedMask r ∧
    (∀ j : Fin 64, j ≠ i → (s.regWrite i v).regRead j = s.regRead j) ∧ (s.regWrite i v).pending = s.pending

/-- R22, R25, R44, R66: a read, busy or not, gives the word that shows the fields of the register at the index, each
at its bits (`Shows`: the bits of STATUS, q and p of CHAIN_A, r and k of CHAIN_B, the one field of every other
register), and changes no register and no pending command; unstored bits and unmapped indices read 0. What the read
gives is kept in the model's own list of replies (log entry 4). -/
def Obligations.ReadsChangeNothing : Prop :=
  (∀ (s : State) (i : Fin 64), ∃ t, s.access (.read i) = .next t ∧ t.replies = .word (s.regRead i) :: s.replies ∧
    (∀ r : RegId, 4 * i.val = offsetOf r → s.Shows r (s.regRead i)) ∧
    (∀ j : Fin 64, t.regRead j = s.regRead j) ∧ t.pending = s.pending ∧ t.schedule = s.schedule) ∧
  (∀ (s : State) (r : RegId) (i : Fin 64), 4 * i.val = offsetOf r → s.regRead i &&& ~~~storedMask r = 0) ∧
  (∀ (s : State) (i : Fin 64), 54 ≤ i.val → s.regRead i = 0)

/-- R69: writing the same word twice leaves the state of writing it once, at every index except CMD's; the second of
two writes to CMD is ignored and sets OVR. -/
def Obligations.WritesAreIdempotent : Prop :=
  ∀ (s : State) (i : Fin 64) (v : Word),
    (i ≠ 3 → (s.regWrite i v).regWrite i v = s.regWrite i v) ∧
    (i = 3 → s.status.busy = false →
      (s.regWrite i v).regWrite i v =
        { s.regWrite i v with status := { (s.regWrite i v).status with ovr := true } })

/-- R67, R68, file 93: a lane write of all four lanes is the write of the word they carry to the index A[7:2]; of
fewer it is refused. A lane read gives the word, or the selected lanes of it, lane j carrying bits [8j+7:8j], kept in
the model's own list of replies (log entries 4 and 9). -/
def Obligations.ByteLaneAccesses : Prop :=
  (∀ (s : State) (addr : BitVec 8) (lanes : BitVec 4) (b3 b2 b1 b0 : Byte),
    (lanes ≠ 0xF → s.access (.laneWrite addr lanes b3 b2 b1 b0) = .refused .subWordWrite) ∧
    (lanes = 0xF → s.access (.laneWrite addr lanes b3 b2 b1 b0) =
      s.access (.write (addr.extractLsb 7 2).toFin (b3 ++ b2 ++ b1 ++ b0)))) ∧
  (∀ (s : State) (addr : BitVec 8) (lanes : BitVec 4),
    let w := s.regRead (addr.extractLsb 7 2).toFin
    (lanes = 0xF → s.access (.laneRead addr lanes) = .next { s with replies := .word w :: s.replies }) ∧
    (lanes ≠ 0xF → ∃ bs, s.access (.laneRead addr lanes) = .next { s with replies := .lanes bs :: s.replies } ∧
      ∀ (j : Fin 4) (b : Byte), (j, b) ∈ bs ↔ lanes.getLsbD j.val = true ∧ b = w.extractLsb' (8 * j.val) 8))

/-- R47, R179: the interrupt line is CTRL.IE and DONE; a completion raises it when IE = 1; an accept lowers it; a
STATUS write with bit 1 lowers it; a CTRL write with bit 0 raises it while DONE = 1, and without bit 0 lowers it. -/
def Obligations.IrqFollowsEnableAndDone : Prop :=
  ∀ s : State,
    s.irq = (s.ctrlIE && s.status.done) ∧
    (∀ (p : Pending) (t : State), s.pending = some p → s.engineTurn = .next t → t.irq = s.ctrlIE) ∧
    (∀ w : Word, s.status.busy = false → (s.regWrite 3 w).irq = false) ∧
    (∀ v : Word, (s.regWrite 2 v).irq = (s.irq && !v.getLsbD 1)) ∧
    (∀ v : Word, s.status.busy = false → (s.regWrite 1 v).irq = (v.getLsbD 0 && s.status.done))

/-- R28: OVR is set by every whole-word host write, not to STATUS, while BUSY = 1, and by nothing else; it is cleared
only by a write to STATUS with bit 3, or by a reset. The schedule says which event a step takes (log entry 1). -/
def Obligations.OvrChangesOnlyAsStated : Prop :=
  ∀ s t : State, step s = .next t →
    (∀ (a : Access) (i : Fin 64) (v : Word) (rest : List Event), s.schedule = .host a :: rest →
      wholeWordWrite a = some (i, v) → i ≠ 2 → s.status.busy = true → t.status.ovr = true) ∧
    (s.status.ovr = false → t.status.ovr = true →
      ∃ (a : Access) (i : Fin 64) (v : Word) (rest : List Event), s.schedule = .host a :: rest ∧
        wholeWordWrite a = some (i, v) ∧ i ≠ 2 ∧ s.status.busy = true) ∧
    (s.status.ovr = true → t.status.ovr = false →
      (∃ (a : Access) (v : Word) (rest : List Event), s.schedule = .host a :: rest ∧
        wholeWordWrite a = some (2, v) ∧ v.getLsbD 3 = true) ∨
      (∃ rest, s.schedule = .reset :: rest) ∨ ∃ (a : Access) (rest : List Event), s.schedule = .hostInReset a :: rest)

/-- R210: a host that, while a command runs, reads and writes nothing but STATUS never sets OVR. The schedule says
which event a step takes (log entry 1). -/
def Obligations.ObedientHostNeverSetsOvr : Prop :=
  ∀ (s t : State), (∀ (a : Access) (rest : List Event), s.schedule = .host a :: rest → hostObeys s a = true) →
    step s = .next t → t.status.ovr = true → s.status.ovr = true

/-- R32, R63: a command comes to be pending only by a whole-word write to CMD while BUSY = 0, and it is the word
written. The schedule says which event a step takes (log entry 1). -/
def Obligations.OnlyACmdWriteStartsACommand : Prop :=
  ∀ (s t : State) (p : Pending), step s = .next t → s.pending = none → t.pending = some p →
    s.status.busy = false ∧ p.ops = s.ops ∧ ∃ (a : Access) (rest : List Event), s.schedule = .host a :: rest ∧
      wholeWordWrite a = some (3, p.word)

/-- R39: KEY_MINV and KEY_B change only by the completion of a KPS, BFS or EKS, by a host write to one of them, or by
a reset. The schedule says which event a step takes (log entry 1), the engine's turn when it is empty (log entry 2).
-/
def Obligations.OnlyKeyCommandsChangeTheKey : Prop :=
  ∀ s t : State, step s = .next t → t.ops.keyMinv ≠ s.ops.keyMinv ∨ t.ops.keyB ≠ s.ops.keyB →
    (∃ p i, s.pending = some p ∧ decode p.word = .ok i ∧ i ∈ [Instr.kps, .bfs, .eks] ∧
      (s.schedule = [] ∨ ∃ rest, s.schedule = .engine :: rest)) ∨
    (∃ (a : Access) (i : Fin 64) (v : Word) (rest : List Event), s.schedule = .host a :: rest ∧
      wholeWordWrite a = some (i, v) ∧ (i = 23 ∨ i = 24)) ∨
    (∃ rest, s.schedule = .reset :: rest) ∨ (∃ (a : Access) (rest : List Event), s.schedule = .hostInReset a :: rest)

/-! ## Reset -/

/-- R201: the word every register reads after reset, no command pending, the interrupt line low. -/
def Obligations.ResetValues : Prop :=
  (∀ (r : RegId) (i : Fin 64), 4 * i.val = offsetOf r → State.reset.regRead i = resetWord r) ∧
    State.reset.pending = none ∧ State.reset.irq = false

/-- R200, R203: a reset, busy or not, leaves every register of the window as after any reset, no command pending, DONE
and IRQ low. -/
def Obligations.ResetDiscardsEverything : Prop :=
  ∀ s : State, (∀ i : Fin 64, s.resetEvent.regRead i = State.reset.regRead i) ∧ s.resetEvent.pending = none ∧
    s.resetEvent.status.done = false ∧ s.resetEvent.irq = false ∧
    (∀ s' : State, s'.schedule = s.schedule → s'.replies = s.replies → s'.resetEvent = s.resetEvent)

/-- R204: an access while reset is held, of whole words or of byte lanes, leaves the machine as a reset does; a write
has no effect and a read gives 0, or the selected lanes of 0, kept in the model's own list of replies (log entries 4,
9 and 10). A lane write of fewer than four lanes is refused, as at any time (R68). -/
def Obligations.AccessesInResetDoNothing : Prop :=
  ∀ s : State,
    (∀ (i : Fin 64) (v : Word), s.accessInReset (.write i v) = .next s.resetEvent) ∧
    (∀ i : Fin 64, s.accessInReset (.read i) = .next { s.resetEvent with replies := .word 0 :: s.replies }) ∧
    (∀ (addr : BitVec 8) (lanes : BitVec 4),
      (lanes = 0xF →
        s.accessInReset (.laneRead addr lanes) = .next { s.resetEvent with replies := .word 0 :: s.replies }) ∧
      (lanes ≠ 0xF →
        ∃ bs, s.accessInReset (.laneRead addr lanes) = .next { s.resetEvent with replies := .lanes bs :: s.replies } ∧
          ∀ (j : Fin 4) (b : Byte), (j, b) ∈ bs ↔ lanes.getLsbD j.val = true ∧ b = 0)) ∧
    (∀ (addr : BitVec 8) (lanes : BitVec 4) (b3 b2 b1 b0 : Byte),
      (lanes = 0xF → s.accessInReset (.laneWrite addr lanes b3 b2 b1 b0) = .next s.resetEvent) ∧
      (lanes ≠ 0xF → s.accessInReset (.laneWrite addr lanes b3 b2 b1 b0) = .refused .subWordWrite))

/-! ## Invariants -/

/-- The reset state is IDLE and consistent, and its result registers are in range (R21, R35, R44, R201, R205). -/
def Obligations.ResetMeetsTheInvariants : Prop := State.reset.Consistent ∧ State.reset.ResultsInRange

/-- R21, R25, R31, R33, R46, R48, R173, of which the spec marks R48 and clauses of R21 and R46 as its own inferences:
every step from a consistent state leads to a consistent state. -/
def Obligations.StepKeepsTheControlState : Prop :=
  ∀ s t : State, s.Consistent → step s = .next t → t.Consistent

/-- R35, R38, R43, R44, R101, R102: every step keeps the result registers in their ranges, KPS_G a power of two up to
256 (or the reset 0), and the chain buffer one chain of division steps: each entry divides the divisor of the entry
before by its remainder, the remainder is 0 at entry CHAIN_LEN − 1 and at no earlier one, and zeros follow. -/
def Obligations.StepKeepsResultsInRange : Prop :=
  ∀ s t : State, s.ResultsInRange → step s = .next t → t.ResultsInRange

/-! ## Runs -/

/-- R72, R215, and R217, which the spec marks as its own inference: however many reads the host makes between an
accept and its completion, the completion leaves what it would have left at once, and each of those reads gives the
register's word from before it. The order of the events is given by the schedule (log entry 1), and the words read are
kept in the model's own list of replies (log entry 4). -/
def Obligations.LatencyDoesNotChangeResults : Prop :=
  ∀ (s t : State) (p : Pending) (reads : List (Fin 64)), s.status.err ≠ 7 → s.pending = some p →
    s.schedule = (reads.map fun i => Event.host (.read i)) ++ [.engine] → s.engineTurn = .next t →
    Sys2Proof.core.run (reads.length + 1) s = .next { t with
      schedule := []
      replies := (reads.map fun i => Reply.word (s.regRead i)).reverse ++ s.replies }

/-- R215 (T_CMD is finite), and R46, whose clause on the live registers the spec marks as its own inference: in a
consistent busy state with no event left to come before it, the next step is the completion, which is THE MODEL'S
CHOICE of when it comes (log entry 2): BUSY reads 0 and DONE reads 1 after it; and the operands it computes from are
the live registers. -/
def Obligations.BusyEngineCompletesWhenLeftAlone : Prop :=
  ∀ s : State, s.Consistent → s.status.busy = true → s.schedule = [] →
    s.operands = s.ops ∧ ∃ t, step s = .next t ∧ t.status.busy = false ∧ t.status.done = true ∧ t.pending = none

/-- R180: a write to STATUS and a completion commute except in DONE, which the completion sets in the end when it
comes second. -/
def Obligations.StatusWriteCommutesWithCompletion : Prop :=
  ∀ (s : State) (p : Pending) (v : Word), s.pending = some p →
    ∃ t u, (s.regWrite 2 v).engineTurn = .next t ∧ s.engineTurn = .next u ∧ t.status.done = true ∧
      t = { u.regWrite 2 v with status := { (u.regWrite 2 v).status with done := true } }
end

