-- ==== Sys2Proof/Laws/State.lean ====
section
/-! SUPPORT. What each update of the state does to each field, true by rfl, and likewise for the fields of STATUS, so that
no proof unfolds a record update. -/

namespace Sys2Proof.Machine

/-! ## STATUS -/

section
variable (st : Status)

@[simp] theorem Status.accepted_busy : st.accepted.busy = true := rfl
@[simp] theorem Status.accepted_done : st.accepted.done = false := rfl
@[simp] theorem Status.accepted_found : st.accepted.found = st.found := rfl
@[simp] theorem Status.accepted_ovr : st.accepted.ovr = st.ovr := rfl
@[simp] theorem Status.accepted_err : st.accepted.err = st.err := rfl
@[simp] theorem Status.accepted_red : st.accepted.red = st.red := rfl
@[simp] theorem Status.accepted_lastop : st.accepted.lastop = st.lastop := rfl

@[simp] theorem Status.completed_busy (op : BitVec 4) : (st.completed op).busy = false := rfl
@[simp] theorem Status.completed_done (op : BitVec 4) : (st.completed op).done = true := rfl
@[simp] theorem Status.completed_found (op : BitVec 4) : (st.completed op).found = false := rfl
@[simp] theorem Status.completed_ovr (op : BitVec 4) : (st.completed op).ovr = st.ovr := rfl
@[simp] theorem Status.completed_err (op : BitVec 4) : (st.completed op).err = 0 := rfl
@[simp] theorem Status.completed_red (op : BitVec 4) : (st.completed op).red = false := rfl
@[simp] theorem Status.completed_lastop (op : BitVec 4) : (st.completed op).lastop = op := rfl

@[simp] theorem Status.hostWritten_busy (v : Word) : (st.hostWritten v).busy = st.busy := rfl
@[simp] theorem Status.hostWritten_done (v : Word) : (st.hostWritten v).done = (if v.getLsbD 1 then false else st.done) := rfl
@[simp] theorem Status.hostWritten_found (v : Word) : (st.hostWritten v).found = st.found := rfl
@[simp] theorem Status.hostWritten_ovr (v : Word) : (st.hostWritten v).ovr = (if v.getLsbD 3 then false else st.ovr) := rfl
@[simp] theorem Status.hostWritten_err (v : Word) : (st.hostWritten v).err = st.err := rfl
@[simp] theorem Status.hostWritten_red (v : Word) : (st.hostWritten v).red = st.red := rfl
@[simp] theorem Status.hostWritten_lastop (v : Word) : (st.hostWritten v).lastop = st.lastop := rfl

@[simp] theorem Status.overrun_busy : st.overrun.busy = st.busy := rfl
@[simp] theorem Status.overrun_done : st.overrun.done = st.done := rfl
@[simp] theorem Status.overrun_found : st.overrun.found = st.found := rfl
@[simp] theorem Status.overrun_ovr : st.overrun.ovr = true := rfl
@[simp] theorem Status.overrun_err : st.overrun.err = st.err := rfl
@[simp] theorem Status.overrun_red : st.overrun.red = st.red := rfl
@[simp] theorem Status.overrun_lastop : st.overrun.lastop = st.lastop := rfl

@[simp] theorem Status.withErr_busy (e : ErrKind) : (st.withErr e).busy = st.busy := rfl
@[simp] theorem Status.withErr_done (e : ErrKind) : (st.withErr e).done = st.done := rfl
@[simp] theorem Status.withErr_found (e : ErrKind) : (st.withErr e).found = st.found := rfl
@[simp] theorem Status.withErr_ovr (e : ErrKind) : (st.withErr e).ovr = st.ovr := rfl
@[simp] theorem Status.withErr_err (e : ErrKind) : (st.withErr e).err = e.code := rfl
@[simp] theorem Status.withErr_red (e : ErrKind) : (st.withErr e).red = st.red := rfl
@[simp] theorem Status.withErr_lastop (e : ErrKind) : (st.withErr e).lastop = st.lastop := rfl

@[simp] theorem Status.withRed_busy (r : Bool) : (st.withRed r).busy = st.busy := rfl
@[simp] theorem Status.withRed_done (r : Bool) : (st.withRed r).done = st.done := rfl
@[simp] theorem Status.withRed_found (r : Bool) : (st.withRed r).found = st.found := rfl
@[simp] theorem Status.withRed_ovr (r : Bool) : (st.withRed r).ovr = st.ovr := rfl
@[simp] theorem Status.withRed_err (r : Bool) : (st.withRed r).err = st.err := rfl
@[simp] theorem Status.withRed_red (r : Bool) : (st.withRed r).red = r := rfl
@[simp] theorem Status.withRed_lastop (r : Bool) : (st.withRed r).lastop = st.lastop := rfl

@[simp] theorem Status.withFound_busy : st.withFound.busy = st.busy := rfl
@[simp] theorem Status.withFound_done : st.withFound.done = st.done := rfl
@[simp] theorem Status.withFound_found : st.withFound.found = true := rfl
@[simp] theorem Status.withFound_ovr : st.withFound.ovr = st.ovr := rfl
@[simp] theorem Status.withFound_err : st.withFound.err = st.err := rfl
@[simp] theorem Status.withFound_red : st.withFound.red = st.red := rfl
@[simp] theorem Status.withFound_lastop : st.withFound.lastop = st.lastop := rfl

end

/-! ## State -/

section
variable (s : State)

@[simp] theorem State.finish_ctrlIE (e : ErrKind) (w : Word) : (s.finish e w).ctrlIE = s.ctrlIE := rfl
@[simp] theorem State.finish_status (e : ErrKind) (w : Word) : (s.finish e w).status = s.status.withErr e := rfl
@[simp] theorem State.finish_cmd (e : ErrKind) (w : Word) : (s.finish e w).cmd = s.cmd := rfl
@[simp] theorem State.finish_errinfo (e : ErrKind) (w : Word) : (s.finish e w).errinfo = w := rfl
@[simp] theorem State.finish_ops (e : ErrKind) (w : Word) : (s.finish e w).ops = s.ops := rfl
@[simp] theorem State.finish_inv (e : ErrKind) (w : Word) : (s.finish e w).inv = s.inv := rfl
@[simp] theorem State.finish_chain (e : ErrKind) (w : Word) : (s.finish e w).chain = s.chain := rfl
@[simp] theorem State.finish_kps (e : ErrKind) (w : Word) : (s.finish e w).kps = s.kps := rfl
@[simp] theorem State.finish_decOut (e : ErrKind) (w : Word) : (s.finish e w).decOut = s.decOut := rfl
@[simp] theorem State.finish_srchCnt (e : ErrKind) (w : Word) : (s.finish e w).srchCnt = s.srchCnt := rfl
@[simp] theorem State.finish_pending (e : ErrKind) (w : Word) : (s.finish e w).pending = s.pending := rfl
@[simp] theorem State.finish_schedule (e : ErrKind) (w : Word) : (s.finish e w).schedule = s.schedule := rfl
@[simp] theorem State.finish_replies (e : ErrKind) (w : Word) : (s.finish e w).replies = s.replies := rfl

@[simp] theorem State.statusFirst_ctrlIE (w : Word) : (s.statusFirst w).ctrlIE = s.ctrlIE := rfl
@[simp] theorem State.statusFirst_status (w : Word) : (s.statusFirst w).status = s.status.completed (opField w) := rfl
@[simp] theorem State.statusFirst_cmd (w : Word) : (s.statusFirst w).cmd = s.cmd := rfl
@[simp] theorem State.statusFirst_errinfo (w : Word) : (s.statusFirst w).errinfo = 0 := rfl
@[simp] theorem State.statusFirst_ops (w : Word) : (s.statusFirst w).ops = s.ops := rfl
@[simp] theorem State.statusFirst_inv (w : Word) : (s.statusFirst w).inv = s.inv := rfl
@[simp] theorem State.statusFirst_chain (w : Word) : (s.statusFirst w).chain = s.chain := rfl
@[simp] theorem State.statusFirst_kps (w : Word) : (s.statusFirst w).kps = s.kps := rfl
@[simp] theorem State.statusFirst_decOut (w : Word) : (s.statusFirst w).decOut = s.decOut := rfl
@[simp] theorem State.statusFirst_srchCnt (w : Word) : (s.statusFirst w).srchCnt = s.srchCnt := rfl
@[simp] theorem State.statusFirst_pending (w : Word) : (s.statusFirst w).pending = s.pending := rfl
@[simp] theorem State.statusFirst_schedule (w : Word) : (s.statusFirst w).schedule = s.schedule := rfl
@[simp] theorem State.statusFirst_replies (w : Word) : (s.statusFirst w).replies = s.replies := rfl

@[simp] theorem State.clearPending_ctrlIE : s.clearPending.ctrlIE = s.ctrlIE := rfl
@[simp] theorem State.clearPending_status : s.clearPending.status = s.status := rfl
@[simp] theorem State.clearPending_cmd : s.clearPending.cmd = s.cmd := rfl
@[simp] theorem State.clearPending_errinfo : s.clearPending.errinfo = s.errinfo := rfl
@[simp] theorem State.clearPending_ops : s.clearPending.ops = s.ops := rfl
@[simp] theorem State.clearPending_inv : s.clearPending.inv = s.inv := rfl
@[simp] theorem State.clearPending_chain : s.clearPending.chain = s.chain := rfl
@[simp] theorem State.clearPending_kps : s.clearPending.kps = s.kps := rfl
@[simp] theorem State.clearPending_decOut : s.clearPending.decOut = s.decOut := rfl
@[simp] theorem State.clearPending_srchCnt : s.clearPending.srchCnt = s.srchCnt := rfl
@[simp] theorem State.clearPending_pending : s.clearPending.pending = none := rfl
@[simp] theorem State.clearPending_schedule : s.clearPending.schedule = s.schedule := rfl
@[simp] theorem State.clearPending_replies : s.clearPending.replies = s.replies := rfl

@[simp] theorem State.completeIllegal_ctrlIE (w : Word) : (s.completeIllegal w).ctrlIE = s.ctrlIE := rfl
@[simp] theorem State.completeIllegal_status (w : Word) :
    (s.completeIllegal w).status = (s.status.completed (opField w)).withErr .illegalCommand := rfl
@[simp] theorem State.completeIllegal_cmd (w : Word) : (s.completeIllegal w).cmd = s.cmd := rfl
@[simp] theorem State.completeIllegal_errinfo (w : Word) : (s.completeIllegal w).errinfo = w := rfl
@[simp] theorem State.completeIllegal_ops (w : Word) : (s.completeIllegal w).ops = s.ops := rfl
@[simp] theorem State.completeIllegal_inv (w : Word) : (s.completeIllegal w).inv = s.inv := rfl
@[simp] theorem State.completeIllegal_chain (w : Word) : (s.completeIllegal w).chain = s.chain := rfl
@[simp] theorem State.completeIllegal_kps (w : Word) : (s.completeIllegal w).kps = s.kps := rfl
@[simp] theorem State.completeIllegal_decOut (w : Word) : (s.completeIllegal w).decOut = s.decOut := rfl
@[simp] theorem State.completeIllegal_srchCnt (w : Word) : (s.completeIllegal w).srchCnt = s.srchCnt := rfl
@[simp] theorem State.completeIllegal_pending (w : Word) : (s.completeIllegal w).pending = none := rfl
@[simp] theorem State.completeIllegal_schedule (w : Word) : (s.completeIllegal w).schedule = s.schedule := rfl
@[simp] theorem State.completeIllegal_replies (w : Word) : (s.completeIllegal w).replies = s.replies := rfl

@[simp] theorem State.writeKey_ctrlIE (mi b : Nat) : (s.writeKey mi b).ctrlIE = s.ctrlIE := rfl
@[simp] theorem State.writeKey_status (mi b : Nat) : (s.writeKey mi b).status = s.status := rfl
@[simp] theorem State.writeKey_cmd (mi b : Nat) : (s.writeKey mi b).cmd = s.cmd := rfl
@[simp] theorem State.writeKey_errinfo (mi b : Nat) : (s.writeKey mi b).errinfo = s.errinfo := rfl
@[simp] theorem State.writeKey_ops (mi b : Nat) :
    (s.writeKey mi b).ops = { s.ops with keyMinv := BitVec.ofNat 8 mi, keyB := BitVec.ofNat 8 b } := rfl
@[simp] theorem State.writeKey_inv (mi b : Nat) : (s.writeKey mi b).inv = s.inv := rfl
@[simp] theorem State.writeKey_chain (mi b : Nat) : (s.writeKey mi b).chain = s.chain := rfl
@[simp] theorem State.writeKey_kps (mi b : Nat) : (s.writeKey mi b).kps = s.kps := rfl
@[simp] theorem State.writeKey_decOut (mi b : Nat) : (s.writeKey mi b).decOut = s.decOut := rfl
@[simp] theorem State.writeKey_srchCnt (mi b : Nat) : (s.writeKey mi b).srchCnt = s.srchCnt := rfl
@[simp] theorem State.writeKey_pending (mi b : Nat) : (s.writeKey mi b).pending = s.pending := rfl
@[simp] theorem State.writeKey_schedule (mi b : Nat) : (s.writeKey mi b).schedule = s.schedule := rfl
@[simp] theorem State.writeKey_replies (mi b : Nat) : (s.writeKey mi b).replies = s.replies := rfl

@[simp] theorem State.accept_ctrlIE (w : Word) : (s.accept w).ctrlIE = s.ctrlIE := rfl
@[simp] theorem State.accept_status (w : Word) : (s.accept w).status = s.status.accepted := rfl
@[simp] theorem State.accept_cmd (w : Word) : (s.accept w).cmd = w := rfl
@[simp] theorem State.accept_errinfo (w : Word) : (s.accept w).errinfo = s.errinfo := rfl
@[simp] theorem State.accept_ops (w : Word) : (s.accept w).ops = s.ops := rfl
@[simp] theorem State.accept_inv (w : Word) : (s.accept w).inv = s.inv := rfl
@[simp] theorem State.accept_chain (w : Word) : (s.accept w).chain = s.chain := rfl
@[simp] theorem State.accept_kps (w : Word) : (s.accept w).kps = s.kps := rfl
@[simp] theorem State.accept_decOut (w : Word) : (s.accept w).decOut = s.decOut := rfl
@[simp] theorem State.accept_srchCnt (w : Word) : (s.accept w).srchCnt = s.srchCnt := rfl
@[simp] theorem State.accept_pending (w : Word) : (s.accept w).pending = some { word := w, ops := s.ops } := rfl
@[simp] theorem State.accept_schedule (w : Word) : (s.accept w).schedule = s.schedule := rfl
@[simp] theorem State.accept_replies (w : Word) : (s.accept w).replies = s.replies := rfl

@[simp] theorem State.writeStatus_ctrlIE (v : Word) : (s.writeStatus v).ctrlIE = s.ctrlIE := rfl
@[simp] theorem State.writeStatus_status (v : Word) : (s.writeStatus v).status = s.status.hostWritten v := rfl
@[simp] theorem State.writeStatus_cmd (v : Word) : (s.writeStatus v).cmd = s.cmd := rfl
@[simp] theorem State.writeStatus_errinfo (v : Word) : (s.writeStatus v).errinfo = s.errinfo := rfl
@[simp] theorem State.writeStatus_ops (v : Word) : (s.writeStatus v).ops = s.ops := rfl
@[simp] theorem State.writeStatus_inv (v : Word) : (s.writeStatus v).inv = s.inv := rfl
@[simp] theorem State.writeStatus_chain (v : Word) : (s.writeStatus v).chain = s.chain := rfl
@[simp] theorem State.writeStatus_kps (v : Word) : (s.writeStatus v).kps = s.kps := rfl
@[simp] theorem State.writeStatus_decOut (v : Word) : (s.writeStatus v).decOut = s.decOut := rfl
@[simp] theorem State.writeStatus_srchCnt (v : Word) : (s.writeStatus v).srchCnt = s.srchCnt := rfl
@[simp] theorem State.writeStatus_pending (v : Word) : (s.writeStatus v).pending = s.pending := rfl
@[simp] theorem State.writeStatus_schedule (v : Word) : (s.writeStatus v).schedule = s.schedule := rfl
@[simp] theorem State.writeStatus_replies (v : Word) : (s.writeStatus v).replies = s.replies := rfl

@[simp] theorem State.ignoreBusy_ctrlIE : s.ignoreBusy.ctrlIE = s.ctrlIE := rfl
@[simp] theorem State.ignoreBusy_status : s.ignoreBusy.status = s.status.overrun := rfl
@[simp] theorem State.ignoreBusy_cmd : s.ignoreBusy.cmd = s.cmd := rfl
@[simp] theorem State.ignoreBusy_errinfo : s.ignoreBusy.errinfo = s.errinfo := rfl
@[simp] theorem State.ignoreBusy_ops : s.ignoreBusy.ops = s.ops := rfl
@[simp] theorem State.ignoreBusy_inv : s.ignoreBusy.inv = s.inv := rfl
@[simp] theorem State.ignoreBusy_chain : s.ignoreBusy.chain = s.chain := rfl
@[simp] theorem State.ignoreBusy_kps : s.ignoreBusy.kps = s.kps := rfl
@[simp] theorem State.ignoreBusy_decOut : s.ignoreBusy.decOut = s.decOut := rfl
@[simp] theorem State.ignoreBusy_srchCnt : s.ignoreBusy.srchCnt = s.srchCnt := rfl
@[simp] theorem State.ignoreBusy_pending : s.ignoreBusy.pending = s.pending := rfl
@[simp] theorem State.ignoreBusy_schedule : s.ignoreBusy.schedule = s.schedule := rfl
@[simp] theorem State.ignoreBusy_replies : s.ignoreBusy.replies = s.replies := rfl

@[simp] theorem State.reply_ctrlIE (r : Reply) : (s.reply r).ctrlIE = s.ctrlIE := rfl
@[simp] theorem State.reply_status (r : Reply) : (s.reply r).status = s.status := rfl
@[simp] theorem State.reply_cmd (r : Reply) : (s.reply r).cmd = s.cmd := rfl
@[simp] theorem State.reply_errinfo (r : Reply) : (s.reply r).errinfo = s.errinfo := rfl
@[simp] theorem State.reply_ops (r : Reply) : (s.reply r).ops = s.ops := rfl
@[simp] theorem State.reply_inv (r : Reply) : (s.reply r).inv = s.inv := rfl
@[simp] theorem State.reply_chain (r : Reply) : (s.reply r).chain = s.chain := rfl
@[simp] theorem State.reply_kps (r : Reply) : (s.reply r).kps = s.kps := rfl
@[simp] theorem State.reply_decOut (r : Reply) : (s.reply r).decOut = s.decOut := rfl
@[simp] theorem State.reply_srchCnt (r : Reply) : (s.reply r).srchCnt = s.srchCnt := rfl
@[simp] theorem State.reply_pending (r : Reply) : (s.reply r).pending = s.pending := rfl
@[simp] theorem State.reply_schedule (r : Reply) : (s.reply r).schedule = s.schedule := rfl
@[simp] theorem State.reply_replies (r : Reply) : (s.reply r).replies = r :: s.replies := rfl

@[simp] theorem State.writeChain_ctrlIE (S : List ModuloStep) : (s.writeChain S).ctrlIE = s.ctrlIE := rfl
@[simp] theorem State.writeChain_status (S : List ModuloStep) : (s.writeChain S).status = s.status := rfl
@[simp] theorem State.writeChain_cmd (S : List ModuloStep) : (s.writeChain S).cmd = s.cmd := rfl
@[simp] theorem State.writeChain_errinfo (S : List ModuloStep) : (s.writeChain S).errinfo = s.errinfo := rfl
@[simp] theorem State.writeChain_ops (S : List ModuloStep) : (s.writeChain S).ops = s.ops := rfl
@[simp] theorem State.writeChain_inv (S : List ModuloStep) :
    (s.writeChain S).inv = { s.inv with len := BitVec.ofNat 4 S.length, gcd := BitVec.ofNat 9 (chainGcd S) } := rfl
@[simp] theorem State.writeChain_chain (S : List ModuloStep) : (s.writeChain S).chain = bufferOf S := rfl
@[simp] theorem State.writeChain_kps (S : List ModuloStep) : (s.writeChain S).kps = s.kps := rfl
@[simp] theorem State.writeChain_decOut (S : List ModuloStep) : (s.writeChain S).decOut = s.decOut := rfl
@[simp] theorem State.writeChain_srchCnt (S : List ModuloStep) : (s.writeChain S).srchCnt = s.srchCnt := rfl
@[simp] theorem State.writeChain_pending (S : List ModuloStep) : (s.writeChain S).pending = s.pending := rfl
@[simp] theorem State.writeChain_schedule (S : List ModuloStep) : (s.writeChain S).schedule = s.schedule := rfl
@[simp] theorem State.writeChain_replies (S : List ModuloStep) : (s.writeChain S).replies = s.replies := rfl

@[simp] theorem State.writeBezout_ctrlIE (x y : Int) (n : Nat) : (s.writeBezout x y n).ctrlIE = s.ctrlIE := rfl
@[simp] theorem State.writeBezout_status (x y : Int) (n : Nat) : (s.writeBezout x y n).status = s.status := rfl
@[simp] theorem State.writeBezout_cmd (x y : Int) (n : Nat) : (s.writeBezout x y n).cmd = s.cmd := rfl
@[simp] theorem State.writeBezout_errinfo (x y : Int) (n : Nat) : (s.writeBezout x y n).errinfo = s.errinfo := rfl
@[simp] theorem State.writeBezout_ops (x y : Int) (n : Nat) : (s.writeBezout x y n).ops = s.ops := rfl
@[simp] theorem State.writeBezout_inv (x y : Int) (n : Nat) :
    (s.writeBezout x y n).inv = { s.inv with bx := sext32 x, by_ := sext32 y, x := BitVec.ofInt 8 (normalize x n) } := rfl
@[simp] theorem State.writeBezout_chain (x y : Int) (n : Nat) : (s.writeBezout x y n).chain = s.chain := rfl
@[simp] theorem State.writeBezout_kps (x y : Int) (n : Nat) : (s.writeBezout x y n).kps = s.kps := rfl
@[simp] theorem State.writeBezout_decOut (x y : Int) (n : Nat) : (s.writeBezout x y n).decOut = s.decOut := rfl
@[simp] theorem State.writeBezout_srchCnt (x y : Int) (n : Nat) : (s.writeBezout x y n).srchCnt = s.srchCnt := rfl
@[simp] theorem State.writeBezout_pending (x y : Int) (n : Nat) : (s.writeBezout x y n).pending = s.pending := rfl
@[simp] theorem State.writeBezout_schedule (x y : Int) (n : Nat) : (s.writeBezout x y n).schedule = s.schedule := rfl
@[simp] theorem State.writeBezout_replies (x y : Int) (n : Nat) : (s.writeBezout x y n).replies = s.replies := rfl

@[simp] theorem State.writeDiffs_ctrlIE (dp dc g : Nat) : (s.writeDiffs dp dc g).ctrlIE = s.ctrlIE := rfl
@[simp] theorem State.writeDiffs_status (dp dc g : Nat) : (s.writeDiffs dp dc g).status = s.status := rfl
@[simp] theorem State.writeDiffs_cmd (dp dc g : Nat) : (s.writeDiffs dp dc g).cmd = s.cmd := rfl
@[simp] theorem State.writeDiffs_errinfo (dp dc g : Nat) : (s.writeDiffs dp dc g).errinfo = s.errinfo := rfl
@[simp] theorem State.writeDiffs_ops (dp dc g : Nat) : (s.writeDiffs dp dc g).ops = s.ops := rfl
@[simp] theorem State.writeDiffs_inv (dp dc g : Nat) : (s.writeDiffs dp dc g).inv = s.inv := rfl
@[simp] theorem State.writeDiffs_chain (dp dc g : Nat) : (s.writeDiffs dp dc g).chain = s.chain := rfl
@[simp] theorem State.writeDiffs_kps (dp dc g : Nat) :
    (s.writeDiffs dp dc g).kps = { s.kps with dp := BitVec.ofNat 8 dp, dc := BitVec.ofNat 8 dc, g := BitVec.ofNat 9 g } := rfl
@[simp] theorem State.writeDiffs_decOut (dp dc g : Nat) : (s.writeDiffs dp dc g).decOut = s.decOut := rfl
@[simp] theorem State.writeDiffs_srchCnt (dp dc g : Nat) : (s.writeDiffs dp dc g).srchCnt = s.srchCnt := rfl
@[simp] theorem State.writeDiffs_pending (dp dc g : Nat) : (s.writeDiffs dp dc g).pending = s.pending := rfl
@[simp] theorem State.writeDiffs_schedule (dp dc g : Nat) : (s.writeDiffs dp dc g).schedule = s.schedule := rfl
@[simp] theorem State.writeDiffs_replies (dp dc g : Nat) : (s.writeDiffs dp dc g).replies = s.replies := rfl

@[simp] theorem State.writeSolution_ctrlIE (m b : Nat) (red : Bool) :
    (s.writeSolution m b red).ctrlIE = s.ctrlIE := rfl
@[simp] theorem State.writeSolution_status (m b : Nat) (red : Bool) :
    (s.writeSolution m b red).status = s.status.withRed red := rfl
@[simp] theorem State.writeSolution_cmd (m b : Nat) (red : Bool) : (s.writeSolution m b red).cmd = s.cmd := rfl
@[simp] theorem State.writeSolution_errinfo (m b : Nat) (red : Bool) :
    (s.writeSolution m b red).errinfo = s.errinfo := rfl
@[simp] theorem State.writeSolution_ops (m b : Nat) (red : Bool) : (s.writeSolution m b red).ops = s.ops := rfl
@[simp] theorem State.writeSolution_inv (m b : Nat) (red : Bool) : (s.writeSolution m b red).inv = s.inv := rfl
@[simp] theorem State.writeSolution_chain (m b : Nat) (red : Bool) : (s.writeSolution m b red).chain = s.chain := rfl
@[simp] theorem State.writeSolution_kps (m b : Nat) (red : Bool) :
    (s.writeSolution m b red).kps = { s.kps with m := BitVec.ofNat 8 m, b := BitVec.ofNat 8 b } := rfl
@[simp] theorem State.writeSolution_decOut (m b : Nat) (red : Bool) :
    (s.writeSolution m b red).decOut = s.decOut := rfl
@[simp] theorem State.writeSolution_srchCnt (m b : Nat) (red : Bool) :
    (s.writeSolution m b red).srchCnt = s.srchCnt := rfl
@[simp] theorem State.writeSolution_pending (m b : Nat) (red : Bool) :
    (s.writeSolution m b red).pending = s.pending := rfl
@[simp] theorem State.writeSolution_schedule (m b : Nat) (red : Bool) :
    (s.writeSolution m b red).schedule = s.schedule := rfl
@[simp] theorem State.writeSolution_replies (m b : Nat) (red : Bool) :
    (s.writeSolution m b red).replies = s.replies := rfl

@[simp] theorem State.writeCount_ctrlIE (n : Nat) : (s.writeCount n).ctrlIE = s.ctrlIE := rfl
@[simp] theorem State.writeCount_status (n : Nat) : (s.writeCount n).status = s.status := rfl
@[simp] theorem State.writeCount_cmd (n : Nat) : (s.writeCount n).cmd = s.cmd := rfl
@[simp] theorem State.writeCount_errinfo (n : Nat) : (s.writeCount n).errinfo = s.errinfo := rfl
@[simp] theorem State.writeCount_ops (n : Nat) : (s.writeCount n).ops = s.ops := rfl
@[simp] theorem State.writeCount_inv (n : Nat) : (s.writeCount n).inv = s.inv := rfl
@[simp] theorem State.writeCount_chain (n : Nat) : (s.writeCount n).chain = s.chain := rfl
@[simp] theorem State.writeCount_kps (n : Nat) : (s.writeCount n).kps = s.kps := rfl
@[simp] theorem State.writeCount_decOut (n : Nat) : (s.writeCount n).decOut = s.decOut := rfl
@[simp] theorem State.writeCount_srchCnt (n : Nat) : (s.writeCount n).srchCnt = BitVec.ofNat 16 n := rfl
@[simp] theorem State.writeCount_pending (n : Nat) : (s.writeCount n).pending = s.pending := rfl
@[simp] theorem State.writeCount_schedule (n : Nat) : (s.writeCount n).schedule = s.schedule := rfl
@[simp] theorem State.writeCount_replies (n : Nat) : (s.writeCount n).replies = s.replies := rfl

@[simp] theorem State.setFound_ctrlIE : s.setFound.ctrlIE = s.ctrlIE := rfl
@[simp] theorem State.setFound_status : s.setFound.status = s.status.withFound := rfl
@[simp] theorem State.setFound_cmd : s.setFound.cmd = s.cmd := rfl
@[simp] theorem State.setFound_errinfo : s.setFound.errinfo = s.errinfo := rfl
@[simp] theorem State.setFound_ops : s.setFound.ops = s.ops := rfl
@[simp] theorem State.setFound_inv : s.setFound.inv = s.inv := rfl
@[simp] theorem State.setFound_chain : s.setFound.chain = s.chain := rfl
@[simp] theorem State.setFound_kps : s.setFound.kps = s.kps := rfl
@[simp] theorem State.setFound_decOut : s.setFound.decOut = s.decOut := rfl
@[simp] theorem State.setFound_srchCnt : s.setFound.srchCnt = s.srchCnt := rfl
@[simp] theorem State.setFound_pending : s.setFound.pending = s.pending := rfl
@[simp] theorem State.setFound_schedule : s.setFound.schedule = s.schedule := rfl
@[simp] theorem State.setFound_replies : s.setFound.replies = s.replies := rfl

@[simp] theorem State.resetEvent_ctrlIE : s.resetEvent.ctrlIE = false := rfl
@[simp] theorem State.resetEvent_status : s.resetEvent.status = Status.reset := rfl
@[simp] theorem State.resetEvent_cmd : s.resetEvent.cmd = 0 := rfl
@[simp] theorem State.resetEvent_errinfo : s.resetEvent.errinfo = 0 := rfl
@[simp] theorem State.resetEvent_ops : s.resetEvent.ops = OperandRegs.reset := rfl
@[simp] theorem State.resetEvent_inv : s.resetEvent.inv = { x := 0, gcd := 0, bx := 0, by_ := 0, len := 0 } := rfl
@[simp] theorem State.resetEvent_chain : s.resetEvent.chain = Vector.replicate 11 ChainEntry.zero := rfl
@[simp] theorem State.resetEvent_kps : s.resetEvent.kps = { dp := 0, dc := 0, g := 0, m := 0, b := 0 } := rfl
@[simp] theorem State.resetEvent_decOut : s.resetEvent.decOut = 0 := rfl
@[simp] theorem State.resetEvent_srchCnt : s.resetEvent.srchCnt = 0 := rfl
@[simp] theorem State.resetEvent_pending : s.resetEvent.pending = none := rfl
@[simp] theorem State.resetEvent_schedule : s.resetEvent.schedule = s.schedule := rfl
@[simp] theorem State.resetEvent_replies : s.resetEvent.replies = s.replies := rfl

end

end Sys2Proof.Machine
end

