-- ==== Sys2Proof/Laws/Ops.lean ====
section
/-! SUPPORT. One lemma for each shared operation, saying everything it can do, so that later proofs cite it instead of
unfolding the operation. -/

namespace Sys2Proof.Machine

/-! ## Arithmetic (R9) -/

theorem modFloor_lt (a : Int) {q : Nat} (hq : 0 < q) : modFloor a q < q := by
  have h : (0 : Int) < (q : Int) := by omega
  have h1 := Int.emod_nonneg a (by omega : (q : Int) ≠ 0)
  have h2 := Int.emod_lt_of_pos a h
  unfold modFloor
  omega

/-- R9: a = q·(a div q) + (a mod q). -/
theorem modFloor_spec (a : Int) {q : Nat} (hq : 0 < q) : a = (q : Int) * (a / (q : Int)) + (modFloor a q : Int) := by
  have h1 := Int.emod_nonneg a (by omega : (q : Int) ≠ 0)
  have h2 := Int.mul_ediv_add_emod a (q : Int)
  unfold modFloor
  omega

theorem modFloor_cast (a : Int) {q : Nat} (hq : 0 < q) : ((modFloor a q : Nat) : Int) = a % (q : Int) := by
  have h1 := Int.emod_nonneg a (by omega : (q : Int) ≠ 0)
  unfold modFloor
  omega

@[simp] theorem modFloor_natCast (a q : Nat) : modFloor (a : Int) q = a % q := by
  unfold modFloor
  omega

/-! ## The register map (R22) -/

theorem regAt_regIndex (r : RegId) : regAt (regIndex r) = some r := by
  cases r with
  | chainA i => revert i; decide
  | chainB i => revert i; decide
  | _ => decide

theorem regAt_eq_some_iff (i : Fin 64) (r : RegId) : regAt i = some r ↔ i = regIndex r := by
  constructor
  · revert i r
    have h : ∀ i : Fin 64, ∀ r ∈ regAt i, i = regIndex r := by decide
    intro i r hr
    exact h i r (by simp [hr])
  · rintro rfl
    exact regAt_regIndex r

/-- Indices 54 to 63 are the unmapped ones. -/
theorem regAt_eq_none_iff (i : Fin 64) : regAt i = none ↔ 54 ≤ i.val := by
  revert i
  decide

/-! ## The words the host reads, by bits (R25, R44) -/

/-- An append as a number: the high part's weight is 2 to the low part's width. -/
theorem shiftLeft_or_toNat (m : Nat) {w : Nat} (x : BitVec w) : m <<< w ||| x.toNat = m * 2 ^ w + x.toNat := by
  rw [← Nat.shiftLeft_add_eq_or_of_lt x.isLt, Nat.shiftLeft_eq]

/-- STATUS as a number, each field at its weight (R25). -/
theorem Status.word_toNat (st : Status) :
    st.word.toNat = st.lastop.toNat * 256 + st.red.toNat * 128 + st.err.toNat * 16 + st.ovr.toNat * 8 +
      st.found.toNat * 4 + st.done.toNat * 2 + st.busy.toNat := by
  simp only [Status.word, BitVec.toNat_append, shiftLeft_or_toNat]
  simp
  omega

/-- Bit k of a word that is hi·2^(k+1) + b·2^k + lo, with lo below 2^k. -/
theorem getLsbD_of_weight {w : Word} {k hi lo : Nat} {b : Bool} (h : w.toNat = (hi * 2 + b.toNat) * 2 ^ k + lo)
    (hlo : lo < 2 ^ k) : w.getLsbD k = b := by
  rw [BitVec.getLsbD, Nat.testBit_eq_decide_div_mod_eq, h, Nat.add_comm, Nat.add_mul_div_right _ _ (by positivity),
    Nat.div_eq_of_lt hlo]
  cases b <;> simp

/-- The bits of STATUS (R25). -/
theorem Status.word_fields (st : Status) :
    st.word.getLsbD 0 = st.busy ∧ st.word.getLsbD 1 = st.done ∧ st.word.getLsbD 2 = st.found ∧
      st.word.getLsbD 3 = st.ovr ∧ st.word.extractLsb 6 4 = st.err ∧ st.word.getLsbD 7 = st.red ∧
      st.word.extractLsb 11 8 = st.lastop ∧ st.word.extractLsb 31 12 = 0 := by
  have h := st.word_toNat
  have hb := st.busy.toNat_le
  have hd := st.done.toNat_le
  have hf := st.found.toNat_le
  have ho := st.ovr.toNat_le
  have he := st.err.isLt
  have hr := st.red.toNat_le
  have hl := st.lastop.isLt
  refine ⟨getLsbD_of_weight (hi := st.word.toNat / 2) (lo := 0) (by omega) (by decide),
    getLsbD_of_weight (hi := st.word.toNat / 4) (lo := st.word.toNat % 2) (by omega) (by omega),
    getLsbD_of_weight (hi := st.word.toNat / 8) (lo := st.word.toNat % 4) (by omega) (by omega),
    getLsbD_of_weight (hi := st.word.toNat / 16) (lo := st.word.toNat % 8) (by omega) (by omega), ?_,
    getLsbD_of_weight (hi := st.word.toNat / 256) (lo := st.word.toNat % 128) (by omega) (by omega), ?_, ?_⟩ <;>
  · apply BitVec.eq_of_toNat_eq
    rw [BitVec.extractLsb_toNat, h, Nat.shiftRight_eq_div_pow]
    simp
    omega

/-- Two 9-bit fields at bits [24:16] and [8:0] as a number. -/
theorem chainWord_toNat (hi lo : BitVec 9) :
    ((0 : BitVec 7) ++ hi ++ (0 : BitVec 7) ++ lo).toNat = hi.toNat * 65536 + lo.toNat := by
  simp only [BitVec.toNat_append, shiftLeft_or_toNat]
  simp
  omega

/-- The layout the words of a chain entry share (R44). -/
theorem chainWord_fields (hi lo : BitVec 9) :
    ((0 : BitVec 7) ++ hi ++ (0 : BitVec 7) ++ lo).extractLsb 24 16 = hi ∧
      ((0 : BitVec 7) ++ hi ++ (0 : BitVec 7) ++ lo).extractLsb 8 0 = lo ∧
      ((0 : BitVec 7) ++ hi ++ (0 : BitVec 7) ++ lo).extractLsb 31 25 = 0 ∧
      ((0 : BitVec 7) ++ hi ++ (0 : BitVec 7) ++ lo).extractLsb 15 9 = 0 := by
  have hh := hi.isLt
  have hl := lo.isLt
  refine ⟨?_, ?_, ?_, ?_⟩ <;>
  · apply BitVec.eq_of_toNat_eq
    rw [BitVec.extractLsb_toNat, chainWord_toNat, Nat.shiftRight_eq_div_pow]
    simp
    omega

/-- q and p of CHAIN_A (R44). -/
theorem ChainEntry.wordA_fields (e : ChainEntry) :
    e.wordA.extractLsb 24 16 = e.q ∧ e.wordA.extractLsb 8 0 = e.p ∧ e.wordA.extractLsb 31 25 = 0 ∧
      e.wordA.extractLsb 15 9 = 0 := chainWord_fields e.q e.p

/-- r and k of CHAIN_B (R44). -/
theorem ChainEntry.wordB_fields (e : ChainEntry) :
    e.wordB.extractLsb 24 16 = e.r ∧ e.wordB.extractLsb 8 0 = e.k ∧ e.wordB.extractLsb 31 25 = 0 ∧
      e.wordB.extractLsb 15 9 = 0 := chainWord_fields e.r e.k

/-! ## Completions (R29, R172, R176) -/

/-- Everything the frame of a legal completion does around a command's rule. -/
theorem complete_spec (i : Instr) (rule : OperandRegs → State → State) (s : State) :
    s.complete i rule = { rule s.operands (s.statusFirst (encode i)) with pending := none } := rfl

@[simp] theorem opField_encode (i : Instr) : opField (encode i) = i.opcode := by cases i <;> rfl

theorem operands_of_pending {s : State} {p : Pending} (h : s.pending = some p) : s.operands = p.ops := by
  simp [State.operands, h]

theorem operands_of_idle {s : State} (h : s.pending = none) : s.operands = s.ops := by
  simp [State.operands, h]

/-- The rule of each command, which its completion runs. -/
def ruleOf : Instr → OperandRegs → State → State
  | .inv => invRule
  | .kps => kpsRule
  | .dec => decRule
  | .bfs => bfsRule
  | .eks => eksRule

/-- Every meaning is the completion frame around its rule. -/
theorem exec_eq (i : Instr) (s : State) : exec i s = .next (s.complete i (ruleOf i)) := by
  cases i <;> rfl

theorem exec_next_eq {i : Instr} {s t : State} (h : exec i s = .next t) : t = s.complete i (ruleOf i) := by
  rw [exec_eq] at h
  exact (Host.Outcome.next.inj h).symm

/-! ## Host writes (R62 to R65) -/

/-- RegWrite by cases: STATUS, ignored for being busy, unmapped, or the register's own effect. -/
theorem regWrite_cases (i : Fin 64) (v : Word) (s : State) :
    (regAt i = some .status ∧ s.regWrite i v = s.writeStatus v) ∨
    (regAt i ≠ some .status ∧ s.status.busy = true ∧ s.regWrite i v = s.ignoreBusy) ∨
    (regAt i = none ∧ s.status.busy = false ∧ s.regWrite i v = s) ∨
    (∃ r, regAt i = some r ∧ r ≠ .status ∧ s.status.busy = false ∧ s.regWrite i v = s.writeReg r v) := by
  unfold State.regWrite
  by_cases h : regAt i = some .status
  · exact .inl ⟨h, by simp [h]⟩
  · rw [if_neg h]
    cases hb : s.status.busy with
    | true => exact .inr (.inl ⟨h, rfl, by simp⟩)
    | false =>
      cases hr : regAt i with
      | none => exact .inr (.inr (.inl ⟨rfl, rfl, by simp⟩))
      | some r =>
        refine .inr (.inr (.inr ⟨r, rfl, ?_, rfl, by simp⟩))
        rintro rfl
        exact h hr

/-- The effect of a write by the register's access code (R22). -/
theorem writeReg_cases (r : RegId) (v : Word) (s : State) :
    (regAccess r = .ro ∧ s.writeReg r v = s) ∨
    (r = .ctrl ∧ s.writeReg r v = { s with ctrlIE := v.getLsbD 0 }) ∨
    (regAccess r = .rw ∧ r ≠ .ctrl ∧ s.writeReg r v = { s with ops := s.ops.store r v }) ∨
    (r = .status ∧ s.writeReg r v = s.writeStatus v) ∨
    (r = .cmd ∧ s.writeReg r v = s.accept v) := by
  cases r <;> simp [State.writeReg, State.storeReg, regAccess]

/-- A host write leaves everything but CTRL.IE, STATUS, CMD, the operand registers and the snapshot. -/
theorem regWrite_frame (i : Fin 64) (v : Word) (s : State) :
    (s.regWrite i v).errinfo = s.errinfo ∧ (s.regWrite i v).inv = s.inv ∧ (s.regWrite i v).chain = s.chain ∧
    (s.regWrite i v).kps = s.kps ∧ (s.regWrite i v).decOut = s.decOut ∧ (s.regWrite i v).srchCnt = s.srchCnt ∧
    (s.regWrite i v).schedule = s.schedule ∧ (s.regWrite i v).replies = s.replies := by
  rcases regWrite_cases i v s with ⟨-, h⟩ | ⟨-, -, h⟩ | ⟨-, -, h⟩ | ⟨r, -, -, -, h⟩ <;> rw [h]
  · simp
  · simp
  · simp
  · rcases writeReg_cases r v s with ⟨-, h⟩ | ⟨-, h⟩ | ⟨-, -, h⟩ | ⟨-, h⟩ | ⟨-, h⟩ <;> rw [h] <;> simp

/-! ## The agents' transitions (R176, R180) -/

/-- The engine's turn by cases: nothing pending, a legal word, an illegal word. -/
theorem engineTurn_cases (s : State) :
    (s.pending = none ∧ s.engineTurn = .next s) ∨
    (∃ p i, s.pending = some p ∧ decode p.word = .ok i ∧ s.engineTurn = exec i s) ∨
    (∃ p e, s.pending = some p ∧ decode p.word = .error e ∧ s.engineTurn = .next (s.completeIllegal p.word)) := by
  unfold State.engineTurn
  cases hp : s.pending with
  | none => exact .inl ⟨rfl, rfl⟩
  | some p =>
    cases hd : decode p.word with
    | ok i => exact .inr (.inl ⟨p, i, rfl, hd, by simp [hd]⟩)
    | error e => exact .inr (.inr ⟨p, e, rfl, hd, by simp [hd]⟩)

/-- What a host access that is answered can do. -/
theorem access_next_cases {a : Access} {s t : State} (h : s.access a = .next t) :
    (∃ r, t = s.reply r) ∨ (∃ i v, t = s.regWrite i v) := by
  cases a with
  | read i => exact .inl ⟨_, (Host.Outcome.next.inj h).symm⟩
  | write i v => exact .inr ⟨i, v, (Host.Outcome.next.inj h).symm⟩
  | laneRead addr lanes => exact .inl ⟨_, (Host.Outcome.next.inj h).symm⟩
  | laneWrite addr lanes b3 b2 b1 b0 =>
    simp only [State.access] at h
    split at h
    · exact .inr ⟨_, _, (Host.Outcome.next.inj h).symm⟩
    · cases h

/-- What a host access while reset is held, that is answered, can do. -/
theorem accessInReset_next_cases {a : Access} {s t : State} (h : s.accessInReset a = .next t) :
    t = s.resetEvent ∨ ∃ r, t = s.resetEvent.reply r := by
  cases a with
  | read i => exact .inr ⟨_, (Host.Outcome.next.inj h).symm⟩
  | write i v => exact .inl (Host.Outcome.next.inj h).symm
  | laneRead addr lanes => exact .inr ⟨_, (Host.Outcome.next.inj h).symm⟩
  | laneWrite addr lanes b3 b2 b1 b0 =>
    simp only [State.accessInReset] at h
    split at h
    · exact .inl (Host.Outcome.next.inj h).symm
    · cases h

/-- Step inversion: from a state `s` whose schedule, but for the event taken, is that of `u`, a step that answers a
next state completed a legal or an illegal word, idled, did a host access, or was reset. -/
theorem step_next_cases {s t : State} (h : step s = .next t) :
    s.status.err ≠ 7 ∧ ∃ u : State, u = { s with schedule := s.schedule.tail } ∧
      ((u.pending = none ∧ t = u) ∨
       (∃ p i, u.pending = some p ∧ decode p.word = .ok i ∧ exec i u = .next t) ∨
       (∃ p e, u.pending = some p ∧ decode p.word = .error e ∧ t = u.completeIllegal p.word) ∨
       (∃ r, t = u.reply r) ∨ (∃ i v, t = u.regWrite i v) ∨
       t = u.resetEvent ∨ (∃ r, t = u.resetEvent.reply r)) := by
  have engine : ∀ u : State, u.engineTurn = .next t →
      (u.pending = none ∧ t = u) ∨
       (∃ p i, u.pending = some p ∧ decode p.word = .ok i ∧ exec i u = .next t) ∨
       (∃ p e, u.pending = some p ∧ decode p.word = .error e ∧ t = u.completeIllegal p.word) := by
    intro u hu
    rcases engineTurn_cases u with ⟨hp, he⟩ | ⟨p, i, hp, hd, he⟩ | ⟨p, e, hp, hd, he⟩ <;> rw [he] at hu
    · exact .inl ⟨hp, (Host.Outcome.next.inj hu).symm⟩
    · exact .inr (.inl ⟨p, i, hp, hd, hu⟩)
    · exact .inr (.inr ⟨p, e, hp, hd, (Host.Outcome.next.inj hu).symm⟩)
  unfold step State.advance at h
  by_cases herr : s.status.err = 7
  · simp [herr] at h
  refine ⟨herr, _, rfl, ?_⟩
  rw [if_neg herr] at h
  cases hs : s.schedule with
  | nil =>
    rw [hs] at h
    have : ({ s with schedule := ([] : List Event).tail } : State) = s := by cases s; simp_all
    rw [this]
    rcases engine s h with h | h | h
    · exact .inl h
    · exact .inr (.inl h)
    · exact .inr (.inr (.inl h))
  | cons e rest =>
    rw [hs] at h
    simp only [List.tail_cons]
    cases e with
    | host a =>
      rcases access_next_cases h with h | h
      · exact .inr (.inr (.inr (.inl h)))
      · exact .inr (.inr (.inr (.inr (.inl h))))
    | engine =>
      rcases engine _ h with h | h | h
      · exact .inl h
      · exact .inr (.inl h)
      · exact .inr (.inr (.inl h))
    | reset => exact .inr (.inr (.inr (.inr (.inr (.inl (Host.Outcome.next.inj h).symm)))))
    | hostInReset a =>
      rcases accessInReset_next_cases h with h | h
      · exact .inr (.inr (.inr (.inr (.inr (.inl h)))))
      · exact .inr (.inr (.inr (.inr (.inr (.inr h)))))

end Sys2Proof.Machine
end

