-- ==== Sys2Proof/Laws/Inverse.lean ====
section
/-! SUPPORT. The shape of the division chain, and the cases of INV's and KPS's rules. -/

namespace Sys2Proof.Machine

theorem inDomain_iff (m n : Nat) : inDomain m n = true ↔ 1 ≤ n ∧ n ≤ 256 ∧ 1 ≤ m ∧ m ≤ n - 1 := by
  simp only [inDomain, Bool.and_eq_true, decide_eq_true_eq, and_assoc]
  exact Iff.rfl

/-- The last step of the pass: the divisor divides. -/
theorem chainFrom_last {p q : Nat} (fuel : Nat) (h : q % p = 0) :
    chainFrom (fuel + 1) p q = [{ p := p, q := q, k := q / p, r := q % p }] := by
  simp [chainFrom, h]

/-- A step of the pass that leaves a remainder: the next divides the old divisor by it. -/
theorem chainFrom_more {p q : Nat} (fuel : Nat) (h : q % p ≠ 0) :
    chainFrom (fuel + 1) p q =
      { p := p, q := q, k := q / p, r := q % p } :: chainFrom fuel (q % p) p := by
  simp [chainFrom, h]

/-- The fuel never matters once it reaches the divisor (R103: the divisor strictly decreases). -/
theorem chainFrom_fuel (fuel p q : Nat) (hp : 1 ≤ p) (hf : p ≤ fuel) : chainFrom fuel p q = chainFrom p p q := by
  induction p using Nat.strongRecOn generalizing fuel q with
  | ind p ih =>
    obtain ⟨f, rfl⟩ : ∃ f, fuel = f + 1 := ⟨fuel - 1, by omega⟩
    obtain ⟨p', rfl⟩ : ∃ p', p = p' + 1 := ⟨p - 1, by omega⟩
    by_cases h : q % (p' + 1) = 0
    · rw [chainFrom_last _ h, chainFrom_last _ h]
    · have hlt : q % (p' + 1) < p' + 1 := Nat.mod_lt _ (by omega)
      rw [chainFrom_more _ h, chainFrom_more _ h, ih _ hlt f (p' + 1) (by omega) (by omega),
        ih _ hlt p' (p' + 1) (by omega) (by omega)]

/-- The chain of a pair, one division at a time. -/
theorem chain_unfold (m n : Nat) (hm : 1 ≤ m) :
    chain m n = if n % m = 0 then [{ p := m, q := n, k := n / m, r := n % m }]
      else { p := m, q := n, k := n / m, r := n % m } :: chain (n % m) m := by
  obtain ⟨m', rfl⟩ : ∃ m', m = m' + 1 := ⟨m - 1, by omega⟩
  unfold chain
  by_cases h : n % (m' + 1) = 0
  · rw [if_pos h, chainFrom_last _ h]
  · have hlt : n % (m' + 1) < m' + 1 := Nat.mod_lt _ (by omega)
    rw [if_neg h, chainFrom_more _ h, chainFrom_fuel m' _ _ (by omega) (by omega)]

/-- The fold starts at the last step with (1, 0) (R106). -/
@[simp] theorem fold_last (st : ModuloStep) : fold [st] = (1, 0) := rfl

/-- One fold step (R106). -/
theorem fold_more (st st' : ModuloStep) (rest : List ModuloStep) :
    fold (st :: st' :: rest) =
      ((fold (st' :: rest)).2 - (st.k : Int) * (fold (st' :: rest)).1, (fold (st' :: rest)).1) := rfl

/-- INV's rule by cases: outside the domain, not coprime, or an inverse. -/
theorem invRule_cases (o : OperandRegs) (s : State) :
    (inDomain o.invM.toNat o.invN.toNat = false ∧ invRule o s = s.finish .invalidDomain 0) ∨
    (inDomain o.invM.toNat o.invN.toNat = true ∧ chainGcd (chain o.invM.toNat o.invN.toNat) ≠ 1 ∧
      invRule o s = (s.writeChain (chain o.invM.toNat o.invN.toNat)).finish .notCoprime
        (zext32 (chainGcd (chain o.invM.toNat o.invN.toNat)))) ∨
    (inDomain o.invM.toNat o.invN.toNat = true ∧ chainGcd (chain o.invM.toNat o.invN.toNat) = 1 ∧
      invRule o s = (s.writeChain (chain o.invM.toNat o.invN.toNat)).writeBezout
        (fold (chain o.invM.toNat o.invN.toNat)).1 (fold (chain o.invM.toNat o.invN.toNat)).2 o.invN.toNat) := by
  cases hd : inDomain o.invM.toNat o.invN.toNat with
  | false => exact .inl ⟨rfl, by simp [invRule, hd]⟩
  | true =>
    by_cases hg : chainGcd (chain o.invM.toNat o.invN.toNat) = 1
    · exact .inr (.inr ⟨rfl, hg, by simp [invRule, hd, hg]⟩)
    · exact .inr (.inl ⟨rfl, hg, by simp [invRule, hd, hg]⟩)

/-- The final inverse by cases: m = 0, m not coprime with 256, or a key (R129, R130). -/
theorem finalInverse_cases (m b : Nat) (s : State) :
    (m = 0 ∧ s.finalInverse m b = s.finish .invalidDomain 0) ∨
    (m ≠ 0 ∧ Nat.gcd m 256 ≠ 1 ∧ s.finalInverse m b = s.finish .notCoprime (zext32 (Nat.gcd m 256))) ∨
    (m ≠ 0 ∧ Nat.gcd m 256 = 1 ∧ s.finalInverse m b = s.writeKey (invCore m 256).value b) := by
  unfold State.finalInverse Config.nMod
  by_cases h0 : m = 0
  · exact .inl ⟨h0, by simp [h0]⟩
  · by_cases hg : Nat.gcd m 256 = 1
    · exact .inr (.inr ⟨h0, hg, by rw [if_neg h0, if_neg (by simp [hg])]⟩)
    · exact .inr (.inl ⟨h0, hg, by rw [if_neg h0, if_pos hg]⟩)

/-- KPS's rule by cases: the two length checks, a raised branch, or a solved one (R131). -/
theorem kpsRule_cases (o : OperandRegs) (s : State) :
    (o.kpsPlen ≠ o.kpsClen ∧ kpsRule o s = s.finish .lengthMismatch 0) ∨
    (o.kpsPlen = o.kpsClen ∧ o.kpsPlen.toNat < 2 ∧ kpsRule o s = s.finish .insufficientSamples 0) ∨
    (o.kpsPlen = o.kpsClen ∧ 2 ≤ o.kpsPlen.toNat ∧ kpsRule o s = solveRule (samplesOf o).order s) := by
  unfold kpsRule Config.minSamples
  by_cases h1 : o.kpsPlen = o.kpsClen
  · by_cases h2 : o.kpsPlen.toNat < 2
    · exact .inr (.inl ⟨h1, h2, by rw [if_neg (by simp [h1]), if_pos h2]⟩)
    · exact .inr (.inr ⟨h1, by omega, by rw [if_neg (by simp [h1]), if_neg h2]⟩)
  · exact .inl ⟨h1, by rw [if_pos h1]⟩

/-- The solver's stages by cases of the branch (R124 to R130). -/
theorem solveRule_cases (t : Samples) (s : State) :
    (∃ e, branch t.dp t.dc (Nat.gcd t.dp 256) = .raised e ∧
      solveRule t s = (s.writeDiffs t.dp t.dc (Nat.gcd t.dp 256)).finish e 0) ∨
    (∃ m red, branch t.dp t.dc (Nat.gcd t.dp 256) = .solved m red ∧
      solveRule t s = ((s.writeDiffs t.dp t.dc (Nat.gcd t.dp 256)).writeSolution m (t.offset m) red).finalInverse
        m (t.offset m)) := by
  unfold solveRule Config.nMod
  cases h : branch t.dp t.dc (Nat.gcd t.dp 256) with
  | raised e => exact .inl ⟨e, rfl, by simp [h]⟩
  | solved m red => exact .inr ⟨m, red, rfl, by simp [h]⟩

end Sys2Proof.Machine
end

