-- ==== Sys2Proof/Laws/PerInstr.lean ====
section
/-! SUPPORT. The family LegalEncoding: a command's word is one of the legal words of R81, and its row of the opcode
table (R82). -/

namespace Sys2Proof.Laws

/-- The command's word is legal, has RSV = 0, and carries the command's OP (R80 to R82). -/
def LegalEncoding.Statement (i : Instr) : Prop :=
  legalWord (encode i) = true ∧ rsvField (encode i) = 0 ∧ opField (encode i) = i.opcode

theorem LegalEncoding.inv : LegalEncoding.Statement .inv := by unfold LegalEncoding.Statement; decide

theorem LegalEncoding.kps : LegalEncoding.Statement .kps := by unfold LegalEncoding.Statement; decide

theorem LegalEncoding.dec : LegalEncoding.Statement .dec := by unfold LegalEncoding.Statement; decide

theorem LegalEncoding.bfs : LegalEncoding.Statement .bfs := by unfold LegalEncoding.Statement; decide

theorem LegalEncoding.eks : LegalEncoding.Statement .eks := by unfold LegalEncoding.Statement; decide

end Sys2Proof.Laws
end

