-- ==== Sys2Proof/Laws/Search.lean ====
section
/-! SUPPORT. What the candidate loop of the searches answers, and which candidates it runs over. -/

namespace Sys2Proof.Machine

/-- The loop by cases: no candidate hits and all were counted, or it stopped at the first hit, counted with all the
candidates before it. -/
theorem firstMatch_cases (hit : Candidate → Bool) (l : List Candidate) (n : Nat) :
    (firstMatch hit l n = (none, n + l.length) ∧ ∀ c ∈ l, hit c = false) ∨
    (∃ pre c post, l = pre ++ c :: post ∧ (∀ c' ∈ pre, hit c' = false) ∧ hit c = true ∧
      firstMatch hit l n = (some c, n + pre.length + 1)) := by
  induction l generalizing n with
  | nil => exact .inl ⟨rfl, by simp⟩
  | cons a l ih =>
    by_cases ha : hit a = true
    · exact .inr ⟨[], a, l, rfl, by simp, ha, by simp [firstMatch, ha]⟩
    · rcases ih (n + 1) with ⟨h1, h2⟩ | ⟨pre, c, post, h1, h2, h3, h4⟩
      · refine .inl ⟨?_, ?_⟩
        · simp only [firstMatch, ha, List.length_cons]
          rw [if_neg (by simp), h1]
          congr 1
          omega
        · simpa [ha] using h2
      · refine .inr ⟨a :: pre, c, post, by simp [h1], by simpa [ha] using h2, h3, ?_⟩
        simp only [firstMatch, ha, List.length_cons]
        rw [if_neg (by simp), h4]
        congr 1
        omega

theorem mem_candidates (mis : List Nat) (c : Candidate) : c ∈ candidates mis ↔ c.mi ∈ mis ∧ c.b < 256 := by
  cases c
  simp [candidates, List.mem_range'_1]

theorem length_candidates (mis : List Nat) : (candidates mis).length = mis.length * 256 := by
  simp [candidates, List.length_flatMap]

theorem mem_allMinvs (mi : Nat) : mi ∈ allMinvs ↔ 1 ≤ mi ∧ mi ≤ 255 := by
  simp [allMinvs, List.mem_range'_1]
  omega

theorem mem_coprimeMinvs (mi : Nat) : mi ∈ coprimeMinvs ↔ (1 ≤ mi ∧ mi ≤ 255) ∧ Nat.gcd mi 256 = 1 := by
  simp [coprimeMinvs, mem_allMinvs, Config.nMod]

theorem candidates_cons (mi : Nat) (l : List Nat) :
    candidates (mi :: l) = ((List.range' 0 256).map fun b => { mi := mi, b := b }) ++ candidates l := rfl

/-- Skipping some m⁻¹ values skips exactly their candidates and keeps the order of the rest. -/
theorem candidates_filter (p : Nat → Bool) (l : List Nat) :
    candidates (l.filter p) = (candidates l).filter fun c => p c.mi := by
  induction l with
  | nil => rfl
  | cons a l ih =>
    rw [candidates_cons, List.filter_append, List.filter_map, List.filter_cons]
    cases ha : p a with
    | true =>
      rw [if_pos rfl, candidates_cons, ih]
      congr 2
      exact (List.filter_eq_self.2 (by simp [ha])).symm
    | false =>
      have none_left : (List.range' 0 256).filter ((fun c => p c.mi) ∘ fun b => ({ mi := a, b := b } : Candidate)) = [] :=
        List.filter_eq_nil_iff.2 (by simp [ha])
      rw [if_neg (by simp), ih, none_left]
      rfl

/-- What a search writes: the count always, the key and FOUND when there is a match. -/
theorem writeSearch_cases (res : Option Candidate × Nat) (s : State) :
    (∃ c, res.1 = some c ∧ s.writeSearch res = ((s.writeKey c.mi c.b).setFound).writeCount res.2) ∨
    (res.1 = none ∧ s.writeSearch res = s.writeCount res.2) := by
  obtain ⟨_ | c, n⟩ := res
  · exact .inr ⟨rfl, rfl⟩
  · exact .inl ⟨c, rfl, rfl⟩

end Sys2Proof.Machine
end

