-- ==== Sys2Proof/Tests/Slice0.lean ====
section
/-! SUPPORT. Tests with expected results from spec/95 and the rules, the checks of WellFormed on ill-formed terms, and for
each statement with hypotheses a state that meets them (`wit_<statement>`). -/

namespace Sys2Proof.Tests

open Sys2Proof Sys2Proof.Machine

/-- An idle machine with these operand registers. -/
def idle (o : OperandRegs) : State := { State.reset with ops := o }

/-- A machine in which w is pending. -/
def busyWith (w : Word) : State := State.reset.accept w

/-- The outcome is a next state that passes f. -/
def answers (out : Host.Outcome State Fault Refusal) (f : State → Bool) : Bool :=
  match out with
  | .next t => f t
  | .fault _ => false
  | .refused _ => false

/-! ## WellFormed: one ill-formed term for each check -/

theorem test_wf_rsv : rsvIsZero 0x00000011 = false := by decide
theorem test_wf_rsv_top : rsvIsZero 0x80000001 = false := by decide
theorem test_wf_op_zero : opIsAssigned 0x00000000 = false := by decide
theorem test_wf_op_high : opIsAssigned 0x00000006 = false := by decide
theorem test_wf_legal : legalWord 0x00000011 = false ∧ legalWord 0 = false ∧ legalWord 5 = true := by decide
theorem test_wf_instr : Instr.wellFormed .eks = true := by decide
theorem test_wf_word : fitsWord (2 ^ 32) = false ∧ fitsWord (2 ^ 32 - 1) = true := by decide
theorem test_wf_wr : (Stmt.wr .invM (2 ^ 32)).wellFormed = false := by decide
theorem test_wf_rdExpect : (Stmt.rdExpect .invX (2 ^ 32)).wellFormed = false := by decide
theorem test_wf_cmd : (Stmt.cmd (2 ^ 32)).wellFormed = false := by decide
theorem test_wf_inv : (Stmt.inv 3 (2 ^ 32)).wellFormed = false := by decide
theorem test_wf_kps : (Stmt.kps 5 22 2 13 (2 ^ 32)).wellFormed = false := by decide
theorem test_wf_dec : (Stmt.dec (2 ^ 32)).wellFormed = false := by decide
theorem test_wf_setkey : (Stmt.setkey (2 ^ 32) 0).wellFormed = false := by decide
theorem test_wf_bfs : (Stmt.bfs 4 (2 ^ 32)).wellFormed = false := by decide
theorem test_wf_eks : (Stmt.eks (2 ^ 32) 143).wellFormed = false := by decide
theorem test_wf_sig : (Stmt.sig 0xFF (2 ^ 32)).wellFormed = false := by decide
theorem test_wf_header : hasHeader [4] = false ∧ hasHeader [4, 143] = true := by decide

/-! ## Decode: the words of R82 written out bit by bit, and the rows of the opcode table -/

theorem test_decode_inv : decode 0b00000000000000000000000000000001#32 = .ok .inv := by decide
theorem test_decode_kps : decode 0b00000000000000000000000000000010#32 = .ok .kps := by decide
theorem test_decode_dec : decode 0b00000000000000000000000000000011#32 = .ok .dec := by decide
theorem test_decode_bfs : decode 0b00000000000000000000000000000100#32 = .ok .bfs := by decide
theorem test_decode_eks : decode 0b00000000000000000000000000000101#32 = .ok .eks := by decide
theorem test_decode_reserved : decode 0b10000000000000000000000000000001#32 = .error .reservedBits := by decide
theorem test_decode_opZero : decode 0#32 = .error .opZero := by decide
theorem test_decode_opHigh : decode 0xF#32 = .error .opUnassigned := by decide
theorem test_table_rows : decodeTableWord 32 1 = some .inv ∧ decodeTableWord 32 2 = some .kps ∧
    decodeTableWord 32 3 = some .dec ∧ decodeTableWord 32 4 = some .bfs ∧ decodeTableWord 32 5 = some .eks ∧
    decodeTableWord 32 6 = none := by decide

/-! ## One step for each command (95 §2.1 to §2.4) -/

/-- 95 §2.1: (159, 256). -/
theorem test_inv_longest : answers (exec .inv (idle { OperandRegs.reset with invM := 159 })) (fun t =>
    t.status.word == 0x102 && t.inv.len == 9 && t.inv.x == 95 && t.inv.by_ == -59 &&
      t.chain[5] == { p := 8, q := 27, k := 3, r := 3 }) = true := by decide

/-- 95 §1 E3: (128, 256). -/
theorem test_inv_notCoprime : answers (exec .inv (idle { OperandRegs.reset with invM := 128 })) (fun t =>
    t.status.word == 0x122 && t.errinfo == 128 && t.readReg (.chainA 0) == 0x01000080 &&
      t.readReg (.chainB 0) == 0x2) = true := by decide

/-- 95 §2.2: (130, 147, 2, 19; 2, 2), the reduction branch. -/
theorem test_kps_reduction : answers (exec .kps (idle { OperandRegs.reset with
    kpsP1 := 130, kpsC1 := 147, kpsP2 := 2, kpsC2 := 19, kpsPlen := 2, kpsClen := 2 })) (fun t =>
    t.status.word == 0x282 && t.kps == { dp := 128, dc := 128, g := 128, m := 1, b := 17 } &&
      t.ops.keyMinv == 1 && t.ops.keyB == 17) = true := by decide

/-- 95 §2.2: (3, 4, 1, 0; 2, 2), the reduction branch and then NotCoprime. -/
theorem test_kps_notCoprime : answers (exec .kps (idle { OperandRegs.reset with
    kpsP1 := 3, kpsC1 := 4, kpsP2 := 1, kpsPlen := 2, kpsClen := 2, keyMinv := 0xAA })) (fun t =>
    t.status.word == 0x2A2 && t.errinfo == 2 && t.kps.b == 254 && t.ops.keyMinv == 0xAA) = true := by decide

/-- 95 §2.3: (171, 7, 143). -/
theorem test_dec_wraps : answers (exec .dec (idle { OperandRegs.reset with
    keyMinv := 171, keyB := 7, decIn := 143 })) (fun t => t.status.word == 0x302 && t.decOut == 0xD8) = true := by
  decide

/-- 95 §2.3: (255, 255, 0), a negative difference. -/
theorem test_dec_negative : answers (exec .dec (idle { OperandRegs.reset with keyMinv := 255, keyB := 255 }))
    (fun t => t.decOut == 0xFF) = true := by decide

/-- 95 §2.4: (5, 5) against (0, 0). -/
theorem test_bfs_inner : answers (exec .bfs (idle { OperandRegs.reset with
    srchH0 := 5, srchH1 := 5, sig0 := 0, sig1 := 0 })) (fun t =>
    t.status.word == 0x406 && t.ops.keyMinv == 1 && t.ops.keyB == 5 && t.srchCnt == 6) = true := by decide

/-- R156 by hand: (1, 0) against (3, 0) matches first at (3, 0), the candidate 2·256 + 0 + 1. -/
theorem test_bfs_outer : answers (exec .bfs (idle { OperandRegs.reset with
    srchH0 := 1, srchH1 := 0, sig0 := 3, sig1 := 0 })) (fun t =>
    t.ops.keyMinv == 3 && t.ops.keyB == 0 && t.srchCnt == 513) = true := by decide +kernel

/-- 95 §2.4: the header is the signature. -/
theorem test_eks_first : answers (exec .eks (idle { OperandRegs.reset with
    srchH0 := 0xFF, srchH1 := 0xD8 })) (fun t => t.status.word == 0x506 && t.srchCnt == 1) = true := by decide

/-- R156 by hand: (1, 0) against (3, 0), mi = 2 skipped and not counted: the candidate 1·256 + 0 + 1. -/
theorem test_eks_skips : answers (exec .eks (idle { OperandRegs.reset with
    srchH0 := 1, srchH1 := 0, sig0 := 3, sig1 := 0 })) (fun t =>
    t.ops.keyMinv == 3 && t.srchCnt == 257) = true := by decide +kernel

/-! ## Host accesses, the illegal word, the schedule (95 §2.5, §2.6) -/

theorem test_illegal : answers (step (busyWith 0x80000001)) (fun t =>
    t.status.word == 0x162 && t.errinfo == 0x80000001 && t.cmd == 0x80000001 && t.pending == none) = true := by decide
theorem test_write_truncates : (State.reset.regWrite 12 0x123).regRead 12 = 0x23 := by decide
theorem test_write_ctrl : (State.reset.regWrite 1 0x1FF).regRead 1 = 1 := by decide
theorem test_write_id : State.reset.regWrite 0 0 = State.reset := by decide
theorem test_read_unmapped : State.reset.regRead 54 = 0 ∧ State.reset.regRead 63 = 0 := by decide
theorem test_busy_write : ((busyWith 1).regWrite 29 0).status.word = 0x9 ∧
    ((busyWith 1).regWrite 29 0).ops.sig0 = 0xFF := by decide
theorem test_busy_cmd : ((busyWith 1).regWrite 3 3).cmd = 1 := by decide
theorem test_lanes : State.reset.access (.laneRead 0x02 0b0110) =
    .next (State.reset.reply (.lanes [(1, 0x52), (2, 0x4B)])) := by rfl
theorem test_lane_write : State.reset.access (.laneWrite 0x17 0xF 0x12 0x34 0x56 0x78) =
    .next (idle { OperandRegs.reset with invM := 0x12345678 }) := by rfl
theorem test_lane_refused : State.reset.access (.laneWrite 0x14 0x7 0 0 0 0) = .refused .subWordWrite := by rfl
theorem test_reserved_err : step { State.reset with status := { Status.reset with err := 7 } } =
    .fault .reservedErrCode := by rfl
theorem test_fetch : answers (step (State.reset.withFetchWord 32 3)) (fun t => t.status.word == 0x302) = true := by
  decide
theorem test_script : expandStmt 1 (.dec 4) =
    [.host (.write 25 4), .host (.write 3 3), .host (.read 2), .engine, .host (.read 2), .host (.read 26)] := by decide

/-! ## Witnesses: the hypotheses of the statements can be met -/

theorem wit_StepPerformsTheNextEvent : State.reset.status.err ≠ 7 ∧ State.reset.schedule = [] ∧
    State.reset.pending = none ∧ (∃ a, ({ State.reset with schedule := [.host a] } : State).schedule = .host a :: []) ∧
    ({ State.reset with schedule := [.engine] } : State).schedule = .engine :: [] ∧
    ({ State.reset with schedule := [.reset] } : State).schedule = .reset :: [] ∧
    ({ State.reset with schedule := [.hostInReset (.read 0)] } : State).schedule = .hostInReset (.read 0) :: [] :=
  ⟨by decide, rfl, rfl, ⟨.read 0, rfl⟩, rfl, rfl, rfl⟩

theorem wit_StepRunsTheDecodedCommand : (busyWith 3).status.err ≠ 7 ∧
    (busyWith 3).pending = some { word := 3, ops := OperandRegs.reset } ∧ decode 3 = .ok .dec ∧
    (busyWith 3).schedule = [] ∧
    ({ busyWith 3 with schedule := [.engine] } : State).schedule = .engine :: [] := by decide

theorem wit_IllegalWordReportsIllegalCommand :
    (busyWith 6).pending = some { word := 6, ops := OperandRegs.reset } ∧
    ¬ ((6 : Word).extractLsb 31 4 = 0 ∧ 1 ≤ ((6 : Word).extractLsb 3 0).toNat ∧
      ((6 : Word).extractLsb 3 0).toNat ≤ 5) ∧
    ¬ ((0 : Word).extractLsb 31 4 = 0 ∧ 1 ≤ ((0 : Word).extractLsb 3 0).toNat ∧
      ((0 : Word).extractLsb 3 0).toNat ≤ 5) := by decide

theorem wit_EveryPendingCommandCompletes : (busyWith 0).pending = some { word := 0, ops := OperandRegs.reset } := by
  decide

theorem wit_CompletionWritesOnlyItsRegisters : ∃ t, exec .dec State.reset = .next t ∧ .dec ∉ writtenBy .invX :=
  ⟨_, rfl, by decide⟩

theorem wit_FlagsByCommand : (∃ t, exec .inv State.reset = .next t) ∧ (∃ t, exec .kps State.reset = .next t) ∧
    (∃ t, exec .dec State.reset = .next t) ∧ (∃ t, exec .bfs State.reset = .next t ∨ exec .eks State.reset = .next t) :=
  ⟨⟨_, rfl⟩, ⟨_, rfl⟩, ⟨_, rfl⟩, ⟨_, .inl rfl⟩⟩

theorem wit_InvChecksItsDomain :
    InvOperands (idle { OperandRegs.reset with invM := 256 }).operands 256 256 ∧ ¬ InvDomain 256 256 ∧
    ¬ InvDomain 0 256 ∧ ¬ InvDomain 5 257 ∧ ¬ InvDomain 1 1 ∧
    InvOperands (idle { OperandRegs.reset with invM := 255 }).operands 255 256 ∧ InvDomain 255 256 ∧
    InvDomain 1 2 := by
  unfold InvOperands InvDomain
  decide

theorem wit_InvReportsNotCoprime :
    InvOperands (idle { OperandRegs.reset with invM := 128 }).operands 128 256 ∧ InvDomain 128 256 ∧
    Nat.gcd 128 256 ≠ 1 := by
  unfold InvOperands InvDomain
  decide

/-- Also the pair (2, 3), whose fold is (-1, 1). -/
theorem wit_InvWritesTheInverse :
    InvOperands (idle { OperandRegs.reset with invM := 3 }).operands 3 256 ∧ InvDomain 3 256 ∧ Nat.gcd 3 256 = 1 ∧
    InvDomain 2 3 ∧ Nat.gcd 2 3 = 1 ∧ fold (chain 2 3) = (-1, 1) := by
  unfold InvOperands InvDomain
  decide

theorem wit_ChainIsTheDivisionPass : InvDomain 144 233 ∧ ∃ st st', (chain 144 233)[9]? = some st ∧
    (chain 144 233)[10]? = some st' := by
  unfold InvDomain
  exact ⟨by decide, _, _, rfl, rfl⟩

theorem wit_ChainBufferHoldsTheChain :
    InvOperands (idle { OperandRegs.reset with invM := 144, invN := 233 }).operands 144 233 ∧ InvDomain 144 233 ∧
    InvOperands (idle { OperandRegs.reset with invM := 128 }).operands 128 256 ∧ InvDomain 128 256 ∧
    (chain 128 256).length ≤ 1 := by
  unfold InvOperands InvDomain
  decide

theorem wit_ChainBounds : InvDomain 144 233 ∧ InvDomain 159 256 ∧ ∃ st st', (chain 159 256)[7]? = some st ∧
    (chain 159 256)[8]? = some st' := by
  unfold InvDomain
  exact ⟨by decide, by decide, _, _, rfl, rfl⟩

theorem wit_InvGcdIsTheLastDivisor :
    InvOperands (idle { OperandRegs.reset with invM := 6 }).operands 6 256 ∧ InvDomain 6 256 ∧
    2 ≤ (chain 6 256).length ∧ InvDomain 128 256 ∧ (chain 128 256).length = 1 := by
  unfold InvOperands InvDomain
  decide

/-- A step before the last, and the last. -/
theorem wit_BezoutAtEveryFoldStep : InvDomain 6 256 ∧
    (∃ st, (chain 6 256)[1]? = some st ∧ 1 + 1 < (chain 6 256).length ∧
      ∃ a b : Int, fold ((chain 6 256).drop (1 + 1)) = (a, b)) ∧
    ∃ st, (chain 6 256)[2]? = some st ∧ 2 + 1 = (chain 6 256).length := by
  unfold InvDomain
  exact ⟨by decide, ⟨_, rfl, by decide, _, _, rfl⟩, _, rfl, by decide⟩

theorem wit_InvCoreIsTheInverse : InvDomain 3 256 ∧ Nat.gcd 3 256 = 1 ∧ InvDomain 6 256 ∧ Nat.gcd 6 256 ≠ 1 ∧
    3 ≤ 255 ∧ 3 % 2 = 1 ∧ invCore 3 256 = .ok 171 := by
  unfold InvDomain
  decide

theorem wit_InvDependsOnItsOperands : ∃ t t', exec .inv (idle { OperandRegs.reset with invM := 3 }) = .next t ∧
    exec .inv (idle { OperandRegs.reset with invM := 3, sig0 := 1 }) = .next t' ∧ t.status.err = 0 :=
  ⟨_, _, rfl, rfl, by decide⟩

theorem wit_KpsChecksTheLengths :
    (idle { OperandRegs.reset with kpsPlen := 1, kpsClen := 2 }).operands.kpsPlen ≠
      (idle { OperandRegs.reset with kpsPlen := 1, kpsClen := 2 }).operands.kpsClen ∧
    (idle { OperandRegs.reset with kpsPlen := 1, kpsClen := 1 }).operands.kpsPlen =
      (idle { OperandRegs.reset with kpsPlen := 1, kpsClen := 1 }).operands.kpsClen ∧
    (idle { OperandRegs.reset with kpsPlen := 1, kpsClen := 1 }).operands.kpsPlen.toNat < 2 := by decide

/-- Operands of KPS with both lengths 2. -/
def kpsOps (p1 c1 p2 c2 : Byte) : OperandRegs :=
  { OperandRegs.reset with kpsP1 := p1, kpsC1 := c1, kpsP2 := p2, kpsC2 := c2, kpsPlen := 2, kpsClen := 2 }

theorem wit_KpsReportsUnsolvable :
    KpsLengthsOk (idle (kpsOps 128 130 0 0)).operands ∧ KpsPairs (idle (kpsOps 128 130 0 0)).operands 128 130 0 0 ∧
    byteDiff 130 0 % Nat.gcd (128 - 0) 256 ≠ 0 ∧
    KpsPairs (idle (kpsOps 9 40 9 41)).operands 9 40 9 41 ∧ byteDiff 40 41 % Nat.gcd (9 - 9) 256 ≠ 0 ∧
    KpsLengthsOk (idle (kpsOps 9 40 9 40)).operands ∧
    (idle (kpsOps 9 40 9 40)).operands.kpsP1 = (idle (kpsOps 9 40 9 40)).operands.kpsP2 ∧
    (idle (kpsOps 9 40 9 40)).operands.kpsC1 = (idle (kpsOps 9 40 9 40)).operands.kpsC2 := by
  unfold KpsLengthsOk KpsPairs byteDiff
  decide

/-- The three outcomes of the final inverse: (6, 9, 5, 9), (3, 4, 1, 0), and (2, 13, 5, 22) written the other way
round. -/
theorem wit_KpsSolvesTheCongruence :
    KpsLengthsOk (idle (kpsOps 2 13 5 22)).operands ∧ KpsPairs (idle (kpsOps 2 13 5 22)).operands 5 22 2 13 ∧
    2 < 5 ∧ byteDiff 22 13 % Nat.gcd (5 - 2) 256 = 0 ∧
    KpsPairs (idle (kpsOps 3 4 1 0)).operands 3 4 1 0 ∧ byteDiff 4 0 % Nat.gcd (3 - 1) 256 = 0 ∧
    KpsPairs (idle (kpsOps 6 9 5 9)).operands 6 9 5 9 ∧ byteDiff 9 9 % Nat.gcd (6 - 5) 256 = 0 := by
  unfold KpsLengthsOk KpsPairs byteDiff
  decide

theorem wit_KpsRecoversAnOddKey : KpsLengthsOk (idle (kpsOps 5 22 2 13)).operands ∧
    ((idle (kpsOps 5 22 2 13)).operands.kpsP1.toNat + (idle (kpsOps 5 22 2 13)).operands.kpsP2.toNat) % 2 = 1 ∧
    (idle (kpsOps 5 22 2 13)).operands.kpsC1.toNat =
      (3 * (idle (kpsOps 5 22 2 13)).operands.kpsP1.toNat + 7) % 256 ∧
    (idle (kpsOps 5 22 2 13)).operands.kpsC2.toNat =
      (3 * (idle (kpsOps 5 22 2 13)).operands.kpsP2.toNat + 7) % 256 := by
  unfold KpsLengthsOk
  decide

theorem wit_KpsSuccessFitsTheSamples : ∃ t, exec .kps (idle (kpsOps 5 22 2 13)) = .next t ∧ t.status.err = 0 :=
  ⟨_, rfl, by decide⟩

theorem wit_KpsReductionIsUnderdetermined : ∃ t, exec .kps (idle (kpsOps 130 147 2 19)) = .next t ∧
    t.status.red = true ∧ 5 ≤ 255 ∧ 5 % (256 / t.kps.g.toNat) = t.kps.m.toNat % (256 / t.kps.g.toNat) :=
  ⟨_, rfl, by decide⟩

theorem wit_KpsFinalFailureMeansEvenKeys : KpsLengthsOk (idle (kpsOps 3 4 1 0)).operands ∧
    KpsPairs (idle (kpsOps 3 4 1 0)).operands 3 4 1 0 ∧ 1 < 3 ∧ byteDiff 4 0 % Nat.gcd (3 - 1) 256 = 0 := by
  unfold KpsLengthsOk KpsPairs byteDiff
  decide

theorem wit_KpsPairOrderDoesNotMatter : (kpsOps 5 22 2 13).kpsP1 ≠ (kpsOps 5 22 2 13).kpsP2 ∧
    (kpsOps 9 40 9 41).kpsP1 = (kpsOps 9 40 9 41).kpsP2 ∧ KpsLengthsOk (kpsOps 9 40 9 41) ∧
    (kpsOps 9 40 9 41).kpsC1 ≠ (kpsOps 9 40 9 41).kpsC2 := by
  unfold KpsLengthsOk
  decide

theorem wit_KpsFailureKeepsTheKey : ∃ t, exec .kps (idle (kpsOps 3 4 1 0)) = .next t ∧ t.status.err ≠ 0 :=
  ⟨_, rfl, by decide⟩

theorem wit_DecUndoesEncryption :
    invCore 3 256 = .ok (idle { OperandRegs.reset with keyMinv := 171, keyB := 7, decIn := 223 }).operands.keyMinv.toNat ∧
    (idle { OperandRegs.reset with keyMinv := 171, keyB := 7, decIn := 223 }).operands.keyB.toNat = 7 ∧
    (idle { OperandRegs.reset with keyMinv := 171, keyB := 7, decIn := 223 }).operands.decIn.toNat =
      (3 * 72 + 7) % 256 := by decide

theorem wit_DecIsABijectionForOddKeys : (171 : Byte).toNat % 2 = 1 ∧ (0 : Byte).toNat % 2 = 0 ∧
    (2 : Byte).toNat % 2 = 0 := by decide

/-- Operands of a search. -/
def srchOps (h0 h1 s0 s1 : Byte) : OperandRegs :=
  { OperandRegs.reset with srchH0 := h0, srchH1 := h1, sig0 := s0, sig1 := s1 }

theorem matches_five_first : Matches (srchOps 5 5 0 0) 1 5 ∧
    ∀ mi' b', Matches (srchOps 5 5 0 0) mi' b' → KeyBefore 1 5 mi' b' := by
  constructor
  · unfold Matches Decrypts
    decide
  · rintro mi' b' ⟨h1, -, hb, h2, -⟩
    simp only [Decrypts, srchOps, BitVec.reduceToNat] at h2
    unfold KeyBefore
    by_cases h : mi' = 1
    · subst h
      omega
    · omega

theorem no_match_for_equal_header (mi b : Nat) : ¬ Matches (srchOps 0 0 0xFF 0xD8) mi b := by
  rintro ⟨-, -, -, h1, h2⟩
  simp only [Decrypts, srchOps, BitVec.reduceToNat] at h1 h2
  omega

theorem wit_BfsFindsTheFirstKey :
    (∃ mi b, Matches (idle (srchOps 5 5 0 0)).operands mi b ∧
      ∀ mi' b', Matches (idle (srchOps 5 5 0 0)).operands mi' b' → KeyBefore mi b mi' b') ∧
    ∀ mi b, ¬ Matches (idle (srchOps 0 0 0xFF 0xD8)).operands mi b :=
  ⟨⟨1, 5, matches_five_first⟩, no_match_for_equal_header⟩

/-- The second clause also where an even key matches: (0, 1) against (0, 0x80). -/
theorem wit_EksFindsTheFirstOddKey :
    (∃ mi b, Matches (idle (srchOps 5 5 0 0)).operands mi b ∧ mi % 2 = 1 ∧
      ∀ mi' b', Matches (idle (srchOps 5 5 0 0)).operands mi' b' → mi' % 2 = 1 → KeyBefore mi b mi' b') ∧
    ∀ mi b, Matches (idle (srchOps 0 1 0 0x80)).operands mi b → mi % 2 = 0 := by
  refine ⟨⟨1, 5, matches_five_first.1, by decide, fun mi' b' h _ => matches_five_first.2 mi' b' h⟩, ?_⟩
  rintro mi b ⟨-, -, -, h1, h2⟩
  simp only [Decrypts, idle, State.operands, State.reset, srchOps, BitVec.reduceToNat] at h1 h2
  have e1 : (mi : Int) * (((0 : Nat) : Int) - (b : Int)) = -((mi : Int) * b) := by ring
  have e2 : (mi : Int) * (((1 : Nat) : Int) - (b : Int)) = mi - (mi : Int) * b := by ring
  rw [e1] at h1
  rw [e2] at h2
  omega

theorem wit_EksAgreesWithBfs : ∃ t u, exec .bfs (idle (srchOps 5 5 0 0)) = .next t ∧
    exec .eks (idle (srchOps 5 5 0 0)) = .next u ∧ t.status.found = true ∧ t.ops.keyMinv.toNat % 2 = 1 :=
  ⟨_, _, rfl, rfl, by decide⟩

/-- The second clause: BFS finds the even key (2, 0) for (1, 0) against (2, 0). -/
theorem wit_EksAgreesWithBfs_even : ∃ t u, exec .bfs (idle (srchOps 1 0 2 0)) = .next t ∧
    exec .eks (idle (srchOps 1 0 2 0)) = .next u ∧
    (t.status.found = false ∨ t.ops.keyMinv.toNat % 2 = 0 ∧ t.status.found = true) :=
  ⟨_, _, rfl, rfl, by decide +kernel⟩

theorem wit_SearchKeyIsUniqueForOddDifference :
    byteDiff (srchOps 4 143 0xFF 0xD8).sig0.toNat (srchOps 4 143 0xFF 0xD8).sig1.toNat % 2 = 1 ∧
    byteDiff (srchOps 4 143 0xFF 0xD8).srchH0.toNat (srchOps 4 143 0xFF 0xD8).srchH1.toNat % 2 = 1 ∧
    Matches (srchOps 4 143 0xFF 0xD8) 171 7 ∧ Matches (srchOps 0 1 0 0x80) 128 0 ∧
    (idle (srchOps 4 143 0xFF 0xD8)).operands.sig0 = 0xFF ∧
    (idle (srchOps 4 143 0xFF 0xD8)).operands.sig1 = 0xD8 := by
  unfold Matches Decrypts byteDiff
  decide

theorem wit_SearchDependsOnHeaderAndSignature : ∃ t t', exec .bfs (idle (srchOps 5 5 0 0)) = .next t ∧
    exec .bfs (idle { srchOps 5 5 0 0 with keyMinv := 9 }) = .next t' ∧ t.status.found = true :=
  ⟨_, _, rfl, rfl, by decide⟩

theorem wit_SearchRecoversTheEncryptingKey : invCore 3 256 = .ok 171 ∧
    (idle (srchOps 4 143 0xFF 0xD8)).operands.sig0 = 0xFF ∧ (idle (srchOps 4 143 0xFF 0xD8)).operands.sig1 = 0xD8 ∧
    (idle (srchOps 4 143 0xFF 0xD8)).operands.srchH0.toNat = (3 * 0xFF + 7) % 256 ∧
    (idle (srchOps 4 143 0xFF 0xD8)).operands.srchH1.toNat = (3 * 0xD8 + 7) % 256 ∧
    (idle { OperandRegs.reset with keyMinv := 171, keyB := 7, decIn := 4 }).operands.keyMinv.toNat = 171 ∧
    (idle { OperandRegs.reset with keyMinv := 171, keyB := 7, decIn := 4 }).operands.keyB.toNat = 7 ∧
    (idle { OperandRegs.reset with keyMinv := 171, keyB := 7, decIn := 4 }).operands.decIn =
      (idle (srchOps 4 143 0xFF 0xD8)).operands.srchH0 := by decide

theorem wit_CmdWriteIsAnAccept : State.reset.status.busy = false ∧ ∀ i, (0x11 : Word) ≠ encode i :=
  ⟨rfl, fun i => by cases i <;> decide⟩

theorem wit_StatusWritesAndBusyWrites : (63 : Fin 64) ≠ 2 ∧ (3 : Fin 64) ≠ 2 ∧ (busyWith 1).status.busy = true := by
  decide

theorem wit_ReadOnlyWritesDoNothing : State.reset.status.busy = false ∧ (0 : Fin 64).val ∈ readOnlyIndices ∧
    (31 : Fin 64).val ∈ readOnlyIndices ∧ 32 ≤ (32 : Fin 64).val ∧ 32 ≤ (63 : Fin 64).val := by decide

theorem wit_ReadWriteRegistersKeepStoredBits : State.reset.status.busy = false ∧
    (1 : Fin 64).val ∈ readWriteIndices ∧ 4 * (1 : Fin 64).val = offsetOf .ctrl ∧
    (30 : Fin 64).val ∈ readWriteIndices ∧ 4 * (30 : Fin 64).val = offsetOf .sig1 := by decide

theorem wit_ReadsChangeNothing : 4 * (0 : Fin 64).val = offsetOf .id ∧ 4 * (2 : Fin 64).val = offsetOf .status ∧
    4 * (53 : Fin 64).val = offsetOf (.chainB 10) ∧ 54 ≤ (54 : Fin 64).val := by decide

/-- 95 §2.1, (3, 256): R44's words of the first entry, (3, 256, 85, 1), and of the second, (1, 3, 3, 0). -/
theorem test_chain_words : answers (exec .inv (idle { OperandRegs.reset with invM := 3 })) (fun t =>
    t.regRead 32 == 0x01000003 && t.regRead 33 == 0x00010055 && t.regRead 34 == 0x00030001 &&
      t.regRead 35 == 0x00000003) = true := by decide

theorem wit_WritesAreIdempotent : (2 : Fin 64) ≠ 3 ∧ State.reset.status.busy = false := by decide

theorem wit_ByteLaneAccesses : (0xE : BitVec 4) ≠ 0xF ∧ (0xF : BitVec 4) = 0xF := by decide

theorem wit_IrqFollowsEnableAndDone : (∃ t, (busyWith 3).pending = some { word := 3, ops := OperandRegs.reset } ∧
    (busyWith 3).engineTurn = .next t) ∧ State.reset.status.busy = false := ⟨⟨_, rfl, rfl⟩, rfl⟩

theorem wit_OvrChangesOnlyAsStated :
    (∃ t, step { busyWith 1 with schedule := [.host (.write 29 0)] } = .next t ∧
      wholeWordWrite (.write 29 0) = some (29, 0) ∧ (29 : Fin 64) ≠ 2 ∧ (busyWith 1).status.busy = true ∧
      (busyWith 1).status.ovr = false ∧ t.status.ovr = true) ∧
    ∃ t, step { (busyWith 1).regWrite 29 0 with schedule := [.host (.write 2 8)] } = .next t ∧
      ((busyWith 1).regWrite 29 0).status.ovr = true ∧ t.status.ovr = false :=
  ⟨⟨_, rfl, by decide⟩, _, rfl, by decide⟩

theorem wit_ObedientHostNeverSetsOvr :
    (∀ (a : Access) (rest : List Event),
      ({ (busyWith 1).regWrite 29 0 with schedule := [.host (.read 2)] } : State).schedule = .host a :: rest →
      hostObeys { (busyWith 1).regWrite 29 0 with schedule := [.host (.read 2)] } a = true) ∧
    ∃ t, step { (busyWith 1).regWrite 29 0 with schedule := [.host (.read 2)] } = .next t ∧ t.status.ovr = true := by
  refine ⟨fun a rest h => ?_, _, rfl, by decide⟩
  obtain ⟨h, -⟩ := List.cons.inj h
  obtain rfl : a = .read 2 := (Event.host.inj h).symm
  decide

theorem wit_OnlyACmdWriteStartsACommand : ∃ t p, step { State.reset with schedule := [.host (.write 3 1)] } = .next t ∧
    State.reset.pending = none ∧ t.pending = some p := ⟨_, _, rfl, rfl, rfl⟩

theorem wit_OnlyKeyCommandsChangeTheKey :
    ∃ t, step { State.reset with schedule := [.host (.write 23 5)] } = .next t ∧
      (t.ops.keyMinv ≠ State.reset.ops.keyMinv ∨ t.ops.keyB ≠ State.reset.ops.keyB) := ⟨_, rfl, by decide⟩

theorem wit_ResetValues : 4 * (29 : Fin 64).val = offsetOf .sig0 := by decide

theorem wit_ResetDiscardsEverything : (busyWith 1).schedule = State.reset.schedule ∧
    (busyWith 1).replies = State.reset.replies := ⟨rfl, rfl⟩

theorem wit_AccessesInResetDoNothing : (0xF : BitVec 4) = 0xF ∧ (0 : BitVec 4) ≠ 0xF ∧ (0xE : BitVec 4) ≠ 0xF := by
  decide

theorem busy_consistent : (busyWith 3).Consistent where
  idle_or_busy := rfl
  snapshot_live := by
    intro p h
    obtain rfl : _ = p := Option.some.inj h
    exact ⟨rfl, rfl⟩
  busy_not_done := fun _ => rfl
  err_not_reserved := by decide
  found_is_search := by decide
  red_is_kps := by decide
  err_of_inverse := by decide
  err_of_kps := by decide
  info_of_notCoprime := by decide
  info_of_illegal := by decide
  info_otherwise := by decide

theorem wit_StepKeepsTheControlState : (busyWith 3).Consistent ∧ ∃ t, step (busyWith 3) = .next t :=
  ⟨busy_consistent, _, rfl⟩

/-- INV is pending and the buffer holds the chain of (3, 256). -/
def withChain : State :=
  { busyWith 1 with
    inv := { x := 171, gcd := 1, bx := -85, by_ := 1, len := 2 }
    chain := bufferOf (chain 3 256)
    kps := { dp := 0, dc := 0, g := 256, m := 0, b := 0 } }

theorem wit_StepKeepsResultsInRange : withChain.ResultsInRange ∧ ∃ t, step withChain = .next t :=
  ⟨⟨by decide, by decide, by decide, by decide, by decide, by decide, by decide, by decide, by decide, by decide⟩,
    _, rfl⟩

theorem wit_LatencyDoesNotChangeResults :
    ∃ t, ({ busyWith 3 with schedule := [.host (.read 2), .host (.read 26), .engine] } : State).status.err ≠ 7 ∧
      (busyWith 3).pending = some { word := 3, ops := OperandRegs.reset } ∧
      ({ busyWith 3 with schedule := [.host (.read 2), .host (.read 26), .engine] } : State).schedule =
        ([2, 26].map fun i => Event.host (.read i)) ++ [.engine] ∧
      ({ busyWith 3 with schedule := [.host (.read 2), .host (.read 26), .engine] } : State).engineTurn = .next t :=
  ⟨_, by decide, rfl, rfl, rfl⟩

theorem wit_BusyEngineCompletesWhenLeftAlone : (busyWith 3).Consistent ∧ (busyWith 3).status.busy = true ∧
    (busyWith 3).schedule = [] := ⟨busy_consistent, rfl, rfl⟩

theorem wit_StatusWriteCommutesWithCompletion :
    (busyWith 3).pending = some { word := 3, ops := OperandRegs.reset } := by decide

end Sys2Proof.Tests
end

section
/-! PROOFS. The division chain, one induction for all of it: its steps, its length, its gcd and its fold (R101 to
R107). -/

namespace Sys2Proof.Machine

/-! ## The steps of the chain (R101) -/

/-- The ModuloStep of one division, q by p (R101). -/
def divisionStep (p q : Nat) : ModuloStep := { p := p, q := q, k := q / p, r := q % p }

/-- The induction of every fact about a chain: it is one step whose remainder is 0, or a step in front of the chain of
the remainder and the divisor. -/
theorem chain_induction {P : (m n : Nat) → 1 ≤ m → Prop}
    (last : ∀ p q hp, q % p = 0 → chain p q = [divisionStep p q] → P p q hp)
    (more : ∀ p q hp (hr : 1 ≤ q % p), chain p q = divisionStep p q :: chain (q % p) p → P (q % p) p hr → P p q hp)
    (m n : Nat) (hm : 1 ≤ m) : P m n hm := by
  induction m using Nat.strongRecOn generalizing n with
  | ind m ih =>
    by_cases h : n % m = 0
    · exact last m n hm h (by rw [chain_unfold m n hm, if_pos h]; rfl)
    · exact more m n hm (by omega) (by rw [chain_unfold m n hm, if_neg h]; rfl) (ih _ (Nat.mod_lt n hm) m (by omega))

theorem chain_eq_cons (m n : Nat) (hm : 1 ≤ m) : ∃ rest, chain m n = divisionStep m n :: rest := by
  induction m, n, hm using chain_induction with
  | last p q hp h hc => exact ⟨[], hc⟩
  | more p q hp hr hc ih => exact ⟨_, hc⟩

theorem chain_ne_nil (m n : Nat) (hm : 1 ≤ m) : chain m n ≠ [] := by
  obtain ⟨rest, h⟩ := chain_eq_cons m n hm
  simp [h]

theorem chain_head (m n : Nat) (hm : 1 ≤ m) : (chain m n)[0]? = some (divisionStep m n) := by
  obtain ⟨rest, h⟩ := chain_eq_cons m n hm
  simp [h]

/-- A list of steps is one division pass: each step divides, the remainder is 0 at the last step alone, and the next
step divides the divisor by the remainder (R101). -/
def IsPass (S : List ModuloStep) : Prop :=
  ∀ (j : Nat) (st : ModuloStep), S[j]? = some st →
    1 ≤ st.p ∧ st.p ≤ st.q ∧ st.k = st.q / st.p ∧ st.r = st.q % st.p ∧ (st.r = 0 ↔ j + 1 = S.length) ∧
      (∀ st', S[j + 1]? = some st' → st'.p = st.r ∧ st'.q = st.p)

theorem chain_isPass (m n : Nat) (hm : 1 ≤ m) : m ≤ n → IsPass (chain m n) := by
  induction m, n, hm using chain_induction with
  | last p q hp h hc =>
    intro hpq j st hj
    rw [hc] at hj ⊢
    obtain ⟨rfl, rfl⟩ : j = 0 ∧ divisionStep p q = st := by simpa [List.getElem?_singleton] using hj
    exact ⟨hp, hpq, rfl, rfl, by simp [divisionStep, h], by simp⟩
  | more p q hp hr hc ih =>
    intro hpq j st hj
    rw [hc] at hj ⊢
    cases j with
    | zero =>
      obtain rfl : divisionStep p q = st := by simpa using hj
      refine ⟨hp, hpq, rfl, rfl, ?_, fun st' hst' => ?_⟩
      · simp [divisionStep, chain_ne_nil _ _ hr]
        omega
      · rw [List.getElem?_cons_succ, chain_head _ _ hr] at hst'
        obtain rfl := Option.some.inj hst'
        exact ⟨rfl, rfl⟩
    | succ j =>
      rw [List.getElem?_cons_succ] at hj
      obtain ⟨h1, h2, h3, h4, h5, h6⟩ := ih (Nat.mod_lt q hp).le j st hj
      exact ⟨h1, h2, h3, h4, by simpa using h5, by simpa using h6⟩

/-- The divisors never exceed the first divisor, nor the dividends the first dividend (R103). -/
theorem chain_le (m n : Nat) (hm : 1 ≤ m) : m ≤ n → ∀ st ∈ chain m n, st.p ≤ m ∧ st.q ≤ n := by
  induction m, n, hm using chain_induction with
  | last p q hp h hc => simp [hc, divisionStep]
  | more p q hp hr hc ih =>
    intro hpq
    have hlt := Nat.mod_lt q hp
    rw [hc]
    refine List.forall_mem_cons.2 ⟨⟨le_rfl, le_rfl⟩, fun st hst => ?_⟩
    obtain ⟨h1, h2⟩ := ih hlt.le st hst
    exact ⟨by omega, by omega⟩

/-- Lamé's bound: a chain of L steps needs a divisor of at least fib (L + 1) and a dividend of at least fib (L + 2). -/
theorem chain_fib_le (m n : Nat) (hm : 1 ≤ m) : m < n →
    Nat.fib ((chain m n).length + 1) ≤ m ∧ Nat.fib ((chain m n).length + 2) ≤ n := by
  induction m, n, hm using chain_induction with
  | last p q hp h hc =>
    intro hpq
    rw [hc]
    simp only [List.length_singleton, Nat.reduceAdd, show Nat.fib 2 = 1 from rfl, show Nat.fib 3 = 2 from rfl]
    omega
  | more p q hp hr hc ih =>
    intro hpq
    obtain ⟨hfr, hfp⟩ := ih (Nat.mod_lt q hp)
    have hq : p + q % p ≤ q := by
      have := Nat.div_add_mod q p
      have := Nat.mul_le_mul_left p (Nat.div_pos hpq.le hp)
      omega
    rw [hc, List.length_cons]
    generalize (chain (q % p) p).length = L at *
    have hsum : Nat.fib (L + 1 + 2) = Nat.fib (L + 1) + Nat.fib (L + 2) := Nat.fib_add_two
    refine ⟨hfp, ?_⟩
    omega

/-- R103: no chain of the domain is longer than the buffer. -/
theorem chain_length_le (m n : Nat) (hm : 1 ≤ m) (hmn : m < n) (hn : n ≤ 256) : (chain m n).length ≤ 11 := by
  by_contra! h
  have hfib : Nat.fib 14 ≤ Nat.fib ((chain m n).length + 2) := Nat.fib_mono (by omega)
  have := (chain_fib_le m n hm hmn).2
  simp only [show Nat.fib 14 = 377 from rfl] at hfib
  omega

/-! ## The gcd of the chain (R104) -/

theorem chainGcd_cons (st : ModuloStep) {S : List ModuloStep} (h : S ≠ []) : chainGcd (st :: S) = chainGcd S := by
  cases S with
  | nil => exact absurd rfl h
  | cons st' rest => simp only [chainGcd, List.getLast?_cons_cons]

/-- Euclid: the last divisor is the gcd. -/
theorem chainGcd_chain (m n : Nat) (hm : 1 ≤ m) : chainGcd (chain m n) = Nat.gcd m n := by
  induction m, n, hm using chain_induction with
  | last p q hp h hc =>
    rw [hc]
    exact (Nat.gcd_eq_left (Nat.dvd_of_mod_eq_zero h)).symm
  | more p q hp hr hc ih =>
    rw [hc, chainGcd_cons _ (chain_ne_nil _ _ hr), ih, ← Nat.gcd_rec]

/-- The gcd of a pair of the domain is at most half of the modulus. -/
theorem two_mul_gcd_le {m n : Nat} (hm : 1 ≤ m) (hmn : m < n) : 2 * Nat.gcd m n ≤ n := by
  have h1 := Nat.le_of_dvd hm (Nat.gcd_dvd_left m n)
  have h2 := Nat.le_of_dvd (by omega) (Nat.dvd_sub (Nat.gcd_dvd_right m n) (Nat.gcd_dvd_left m n))
  omega

/-! ## The fold of the chain (R106, R107) -/

/-- One fold step in front of a pass that is not empty (R106). -/
theorem fold_cons (st : ModuloStep) {S : List ModuloStep} (h : S ≠ []) :
    fold (st :: S) = ((fold S).2 - (st.k : Int) * (fold S).1, (fold S).1) := by
  cases S with
  | nil => exact absurd rfl h
  | cons st' rest => exact fold_more st st' rest

/-- The fold's pair combines divisor and dividend to the gcd (R110 item 4). -/
theorem fold_chain_bezout (m n : Nat) (hm : 1 ≤ m) :
    (m : Int) * (fold (chain m n)).1 + (n : Int) * (fold (chain m n)).2 = (Nat.gcd m n : Int) := by
  induction m, n, hm using chain_induction with
  | last p q hp h hc => simp [hc, Nat.gcd_eq_left (Nat.dvd_of_mod_eq_zero h)]
  | more p q hp hr hc ih =>
    have hdiv : (p : Int) * ((q / p : Nat) : Int) + ((q % p : Nat) : Int) = (q : Int) := by
      exact_mod_cast Nat.div_add_mod q p
    rw [hc, fold_cons _ (chain_ne_nil _ _ hr), Nat.gcd_rec p q, ← ih]
    simp only [divisionStep]
    linear_combination -(fold (chain (q % p) p)).1 * hdiv

/-- The fold of a one-step chain, and the bounds of a longer one: at most half the dividend and half the divisor. -/
theorem fold_chain_bounds (m n : Nat) (hm : 1 ≤ m) : m ≤ n →
    (n % m = 0 ∧ fold (chain m n) = (1, 0)) ∨
    (n % m ≠ 0 ∧ 2 * |(fold (chain m n)).1| ≤ (n : Int) ∧ 2 * |(fold (chain m n)).2| ≤ (m : Int)) := by
  induction m, n, hm using chain_induction with
  | last p q hp h hc => exact fun _ => .inl ⟨h, by rw [hc]; rfl⟩
  | more p q hp hr hc ih =>
    intro hpq
    have hlt := Nat.mod_lt q hp
    have hdiv : ((q / p : Nat) : Int) * (p : Int) + ((q % p : Nat) : Int) = (q : Int) := by
      exact_mod_cast Nat.div_add_mod' q p
    refine .inr ⟨by omega, ?_⟩
    rw [hc, fold_cons _ (chain_ne_nil _ _ hr)]
    simp only [divisionStep]
    rcases ih hlt.le with ⟨-, hone⟩ | ⟨-, hx, hy⟩
    · have hp2 : (2 : Int) ≤ p := by omega
      have hk : (0 : Int) ≤ ((q / p : Nat) : Int) := by positivity
      rw [hone]
      simp only [zero_sub, mul_one, abs_neg, abs_one, abs_of_nonneg hk]
      exact ⟨by nlinarith, hp2⟩
    · refine ⟨?_, hx⟩
      have hk : (0 : Int) ≤ ((q / p : Nat) : Int) := by positivity
      calc 2 * |(fold (chain (q % p) p)).2 - ((q / p : Nat) : Int) * (fold (chain (q % p) p)).1|
          ≤ 2 * (|(fold (chain (q % p) p)).2| + |((q / p : Nat) : Int) * (fold (chain (q % p) p)).1|) := by
            gcongr
            exact abs_sub _ _
        _ = 2 * |(fold (chain (q % p) p)).2| + ((q / p : Nat) : Int) * (2 * |(fold (chain (q % p) p)).1|) := by
            rw [abs_mul, abs_of_nonneg hk]
            ring
        _ ≤ ((q % p : Nat) : Int) + ((q / p : Nat) : Int) * (p : Int) := by gcongr
        _ = (q : Int) := by rw [← hdiv]; ring

/-- R107's pair over the coprime pairs of the domain fits 8 signed bits but for -128: half of n is at most 128, and
128 itself would need an even x with n = 256. -/
theorem fold_chain_range {m n : Nat} (hm : 1 ≤ m) (hmn : m < n) (hn : n ≤ 256) (hg : Nat.gcd m n = 1) :
    (-127 ≤ (fold (chain m n)).1 ∧ (fold (chain m n)).1 ≤ 127) ∧
      (-127 ≤ (fold (chain m n)).2 ∧ (fold (chain m n)).2 ≤ 127) := by
  have hbez := fold_chain_bezout m n hm
  rcases fold_chain_bounds m n hm hmn.le with ⟨-, hone⟩ | ⟨-, hx, hy⟩
  · rw [hone]
    decide
  · rw [hg] at hbez
    generalize (fold (chain m n)).1 = x at *
    generalize (fold (chain m n)).2 = y at *
    have half_bounds : ∀ z : Int, ∀ k : Nat, 2 * |z| ≤ (k : Int) → -(k : Int) ≤ 2 * z ∧ 2 * z ≤ k := by
      intro z k hz
      have := abs_le.1 (show |2 * z| ≤ (k : Int) by rwa [abs_mul, abs_two])
      exact this
    have hxb := half_bounds x n hx
    have hyb := half_bounds y m hy
    have hne : n = 256 → x ≠ 128 ∧ x ≠ -128 := by
      rintro rfl
      constructor <;> rintro rfl <;> omega
    by_cases h256 : n = 256
    · obtain ⟨h1, h2⟩ := hne h256
      omega
    · omega

end Sys2Proof.Machine
end

section
/-! PROOFS. What the rule of each command leaves unchanged (R22, R83) and what it can report (R48). -/

namespace Sys2Proof.Machine

/-! ## The frame of a rule -/

/-- What the rule of command i keeps from s to t: everything but the flags ERR, FOUND and RED, ERRINFO, and the result
registers that R22 says i writes. -/
structure RuleFrame (i : Instr) (s t : State) : Prop where
  ctrlIE : t.ctrlIE = s.ctrlIE
  cmd : t.cmd = s.cmd
  pending : t.pending = s.pending
  schedule : t.schedule = s.schedule
  replies : t.replies = s.replies
  busy : t.status.busy = s.status.busy
  done : t.status.done = s.status.done
  ovr : t.status.ovr = s.status.ovr
  lastop : t.status.lastop = s.status.lastop
  operands : t.ops = { s.ops with keyMinv := t.ops.keyMinv, keyB := t.ops.keyB }
  key : i ∉ [Instr.kps, .bfs, .eks] → t.ops = s.ops
  inv : i ≠ .inv → t.inv = s.inv ∧ t.chain = s.chain
  kps : i ≠ .kps → t.kps = s.kps
  decOut : i ≠ .dec → t.decOut = s.decOut
  srchCnt : i ∉ [Instr.bfs, .eks] → t.srchCnt = s.srchCnt

theorem RuleFrame.trans {i : Instr} {s t u : State} (h : RuleFrame i s t) (h' : RuleFrame i t u) :
    RuleFrame i s u where
  ctrlIE := h'.ctrlIE.trans h.ctrlIE
  cmd := h'.cmd.trans h.cmd
  pending := h'.pending.trans h.pending
  schedule := h'.schedule.trans h.schedule
  replies := h'.replies.trans h.replies
  busy := h'.busy.trans h.busy
  done := h'.done.trans h.done
  ovr := h'.ovr.trans h.ovr
  lastop := h'.lastop.trans h.lastop
  operands := h'.operands.trans (by rw [h.operands])
  key := fun hi => (h'.key hi).trans (h.key hi)
  inv := fun hi => ⟨(h'.inv hi).1.trans (h.inv hi).1, (h'.inv hi).2.trans (h.inv hi).2⟩
  kps := fun hi => (h'.kps hi).trans (h.kps hi)
  decOut := fun hi => (h'.decOut hi).trans (h.decOut hi)
  srchCnt := fun hi => (h'.srchCnt hi).trans (h.srchCnt hi)

section
variable (s : State)

theorem finish_frame (i : Instr) (e : ErrKind) (w : Word) : RuleFrame i s (s.finish e w) := by
  constructor <;> simp

theorem writeChain_frame (S : List ModuloStep) : RuleFrame .inv s (s.writeChain S) := by
  constructor <;> simp

theorem writeBezout_frame (x y : Int) (n : Nat) : RuleFrame .inv s (s.writeBezout x y n) := by
  constructor <;> simp

theorem writeDiffs_frame (dp dc g : Nat) : RuleFrame .kps s (s.writeDiffs dp dc g) := by
  constructor <;> simp

theorem writeSolution_frame (m b : Nat) (red : Bool) : RuleFrame .kps s (s.writeSolution m b red) := by
  constructor <;> simp

theorem writeKey_frame {i : Instr} (hi : i ∈ [Instr.kps, .bfs, .eks]) (mi b : Nat) :
    RuleFrame i s (s.writeKey mi b) := by
  constructor <;> simp [hi]

theorem setFound_frame (i : Instr) : RuleFrame i s s.setFound := by
  constructor <;> simp

theorem writeCount_frame {i : Instr} (hi : i ∈ [Instr.bfs, .eks]) (n : Nat) : RuleFrame i s (s.writeCount n) := by
  constructor <;> simp [hi]

theorem decRule_frame (o : OperandRegs) : RuleFrame .dec s (decRule o s) := by
  constructor <;> simp [decRule]

theorem invRule_frame (o : OperandRegs) : RuleFrame .inv s (invRule o s) := by
  rcases invRule_cases o s with ⟨-, h⟩ | ⟨-, -, h⟩ | ⟨-, -, h⟩ <;> rw [h]
  · exact finish_frame ..
  · exact (writeChain_frame ..).trans (finish_frame ..)
  · exact (writeChain_frame ..).trans (writeBezout_frame ..)

theorem finalInverse_frame (m b : Nat) : RuleFrame .kps s (s.finalInverse m b) := by
  rcases finalInverse_cases m b s with ⟨-, h⟩ | ⟨-, -, h⟩ | ⟨-, -, h⟩ <;> rw [h]
  · exact finish_frame ..
  · exact finish_frame ..
  · exact writeKey_frame _ (by decide) ..

theorem kpsRule_frame (o : OperandRegs) : RuleFrame .kps s (kpsRule o s) := by
  rcases kpsRule_cases o s with ⟨-, h⟩ | ⟨-, -, h⟩ | ⟨-, -, h⟩ <;> rw [h]
  · exact finish_frame ..
  · exact finish_frame ..
  · rcases solveRule_cases (samplesOf o).order s with ⟨e, -, h⟩ | ⟨m, red, -, h⟩ <;> rw [h]
    · exact (writeDiffs_frame ..).trans (finish_frame ..)
    · exact ((writeDiffs_frame ..).trans (writeSolution_frame ..)).trans (finalInverse_frame ..)

theorem searchRule_frame {i : Instr} (hi : i ∈ [Instr.bfs, .eks]) (mis : List Nat) (o : OperandRegs) :
    RuleFrame i s (searchRule mis o s) := by
  unfold searchRule
  rcases writeSearch_cases (firstMatch (isMatch o) (candidates mis) 0) s with ⟨c, -, h⟩ | ⟨-, h⟩ <;> rw [h]
  · exact ((writeKey_frame _ (List.mem_cons_of_mem _ hi) ..).trans (setFound_frame ..)).trans (writeCount_frame _ hi ..)
  · exact writeCount_frame _ hi ..

/-- R22, R83: every command's rule keeps the frame of its row. -/
theorem ruleOf_frame (i : Instr) (o : OperandRegs) : RuleFrame i s (ruleOf i o s) := by
  cases i with
  | inv => exact invRule_frame s o
  | kps => exact kpsRule_frame s o
  | dec => exact decRule_frame s o
  | bfs => exact searchRule_frame s (by decide) allMinvs o
  | eks => exact searchRule_frame s (by decide) coprimeMinvs o

end

/-! ## The reports of a rule (R48, R170) -/

/-- Nothing is reported yet: the flags and ERRINFO as the first writes of a completion leave them (R29). -/
structure State.Fresh (s : State) : Prop where
  err : s.status.err = 0
  found : s.status.found = false
  red : s.status.red = false
  info : s.errinfo = 0

theorem statusFirst_fresh (s : State) (w : Word) : (s.statusFirst w).Fresh := ⟨rfl, rfl, rfl, rfl⟩

/-- ERRINFO holds a gcd that a domain of R100 allows. -/
def State.InfoIsGcd (s : State) : Prop := 2 ≤ s.errinfo.toNat ∧ s.errinfo.toNat ≤ 128

/-- The gcd of a pair that is not coprime, as a word and as the 9 bits of INV_GCD. -/
theorem gcd_word_bounds {m n : Nat} (hm : 1 ≤ m) (hmn : m < n) (hn : n ≤ 256) (hg : Nat.gcd m n ≠ 1) :
    (2 ≤ (zext32 (Nat.gcd m n)).toNat ∧ (zext32 (Nat.gcd m n)).toNat ≤ 128) ∧
      zext32 (Nat.gcd m n) = (BitVec.ofNat 9 (Nat.gcd m n)).setWidth 32 := by
  have hle := two_mul_gcd_le hm hmn
  have hpos := Nat.gcd_pos_of_pos_left n hm
  refine ⟨?_, BitVec.eq_of_toNat_eq ?_⟩
  · rw [zext32, BitVec.toNat_ofNat, Nat.mod_eq_of_lt (by omega)]
    omega
  · rw [zext32, BitVec.toNat_setWidth, BitVec.toNat_ofNat, BitVec.toNat_ofNat]
    omega

/-- INV reports nothing, InvalidDomain, or NotCoprime with the gcd (R100, R105). -/
theorem invRule_report {s : State} (hs : s.Fresh) (o : OperandRegs) :
    (invRule o s).status.found = false ∧ (invRule o s).status.red = false ∧
      (((invRule o s).status.err = 0 ∨ (invRule o s).status.err = 1) ∧ (invRule o s).errinfo = 0 ∨
        (invRule o s).status.err = 2 ∧ (invRule o s).InfoIsGcd ∧
          (invRule o s).errinfo = (invRule o s).inv.gcd.setWidth 32) := by
  rcases invRule_cases o s with ⟨-, h⟩ | ⟨hd, hg, h⟩ | ⟨-, -, h⟩ <;> rw [h]
  · exact ⟨hs.found, hs.red, .inl ⟨.inr rfl, rfl⟩⟩
  · obtain ⟨-, hn, hm, hmn⟩ := (inDomain_iff _ _).1 hd
    rw [chainGcd_chain _ _ hm] at hg
    obtain ⟨hbounds, hword⟩ := gcd_word_bounds hm (by omega) hn hg
    refine ⟨hs.found, hs.red, .inr ⟨rfl, ?_, ?_⟩⟩
    · simpa [State.InfoIsGcd, chainGcd_chain _ _ hm] using hbounds
    · simpa [chainGcd_chain _ _ hm] using hword
  · exact ⟨hs.found, hs.red, .inl ⟨.inl hs.err, hs.info⟩⟩

/-- What the branches of KPS answer: one of their errors, or an m that fits a byte (R125 to R127). -/
theorem branch_cases {dp dc g : Nat} (hg : g ∣ 256) :
    branch dp dc g = .raised .noSolution ∨ branch dp dc g = .raised .invalidDomain ∨
      ∃ m red, branch dp dc g = .solved m red ∧ m < 256 := by
  unfold branch Config.nMod
  by_cases h1 : g = 1
  · rw [if_pos h1]
    exact .inr (.inr ⟨_, _, rfl, Nat.mod_lt _ (by decide)⟩)
  · rw [if_neg h1]
    by_cases h2 : dc % g ≠ 0
    · exact .inl (if_pos h2)
    · rw [if_neg h2]
      by_cases h3 : dp = 0
      · exact .inr (.inl (if_pos h3))
      · rw [if_neg h3]
        have hpos : 0 < 256 / g := Nat.div_pos (Nat.le_of_dvd (by decide) hg) (Nat.pos_of_dvd_of_pos hg (by decide))
        exact .inr (.inr ⟨_, _, rfl, (Nat.mod_lt _ hpos).trans_le (Nat.div_le_self 256 g)⟩)

/-- The solver's two outcomes with what branch selection can hand on: the error of a branch, or a byte m. -/
theorem solveRule_outcomes (t : Samples) (s : State) :
    (∃ e, (e = .noSolution ∨ e = .invalidDomain) ∧
      solveRule t s = (s.writeDiffs t.dp t.dc (Nat.gcd t.dp 256)).finish e 0) ∨
    (∃ m red, m < 256 ∧
      solveRule t s = ((s.writeDiffs t.dp t.dc (Nat.gcd t.dp 256)).writeSolution m (t.offset m) red).finalInverse
        m (t.offset m)) := by
  have hb := branch_cases (dp := t.dp) (dc := t.dc) (Nat.gcd_dvd_right t.dp 256)
  rcases solveRule_cases t s with ⟨e, he, h⟩ | ⟨m, red, hm, h⟩
  · rw [he] at hb
    exact .inl ⟨e, by simpa using hb, h⟩
  · rw [hm] at hb
    exact .inr ⟨m, red, by simpa using hb, h⟩

/-- KPS reports nothing, one of its errors, or NotCoprime with the gcd of KPS_M and 256 (R48, R120 to R129). -/
def KpsReport (t : State) : Prop :=
  t.status.found = false ∧
    (t.status.err ∈ [(0 : BitVec 3), 1, 3, 4, 5] ∧ t.errinfo = 0 ∨
      t.status.err = 2 ∧ t.InfoIsGcd ∧ t.errinfo = BitVec.ofNat 32 (Nat.gcd t.kps.m.toNat 256))

theorem finalInverse_report {s : State} {m : Nat} (b : Nat) (herr : s.status.err = 0) (hinfo : s.errinfo = 0)
    (hfound : s.status.found = false) (hkps : s.kps.m.toNat = m) : KpsReport (s.finalInverse m b) := by
  rcases finalInverse_cases m b s with ⟨-, h⟩ | ⟨hm, hg, h⟩ | ⟨-, -, h⟩ <;> rw [h]
  · exact ⟨hfound, .inl ⟨by simp [ErrKind.code], rfl⟩⟩
  · have hlt : m < 256 := hkps ▸ s.kps.m.isLt
    refine ⟨hfound, .inr ⟨rfl, (gcd_word_bounds (Nat.pos_of_ne_zero hm) hlt le_rfl hg).1, ?_⟩⟩
    simp [zext32, hkps]
  · exact ⟨hfound, .inl ⟨by simp [herr], hinfo⟩⟩

theorem kpsRule_report {s : State} (hs : s.Fresh) (o : OperandRegs) : KpsReport (kpsRule o s) := by
  have raised : ∀ u : State, u.status.found = false → ∀ e : ErrKind, e.code ∈ [(0 : BitVec 3), 1, 3, 4, 5] →
      KpsReport (u.finish e 0) := fun u hu e he => ⟨hu, .inl ⟨he, rfl⟩⟩
  rcases kpsRule_cases o s with ⟨-, h⟩ | ⟨-, -, h⟩ | ⟨-, -, h⟩ <;> rw [h]
  · exact raised s hs.found _ (by decide)
  · exact raised s hs.found _ (by decide)
  · rcases solveRule_outcomes (samplesOf o).order s with ⟨e, rfl | rfl, h⟩ | ⟨m, red, hm, h⟩ <;> rw [h]
    · exact raised _ hs.found _ (by decide)
    · exact raised _ hs.found _ (by decide)
    · exact finalInverse_report _ hs.err hs.info hs.found (by simp; omega)

/-- DEC reports nothing (R140). -/
theorem decRule_report {s : State} (hs : s.Fresh) (o : OperandRegs) : (decRule o s).Fresh :=
  ⟨hs.err, hs.found, hs.red, hs.info⟩

/-- A search reports no error; it can only set FOUND (R150, R155). -/
theorem searchRule_report {s : State} (hs : s.Fresh) (mis : List Nat) (o : OperandRegs) :
    (searchRule mis o s).status.err = 0 ∧ (searchRule mis o s).status.red = false ∧
      (searchRule mis o s).errinfo = 0 := by
  unfold searchRule
  rcases writeSearch_cases (firstMatch (isMatch o) (candidates mis) 0) s with ⟨c, -, h⟩ | ⟨-, h⟩ <;> rw [h] <;>
    exact ⟨hs.err, hs.red, hs.info⟩

/-! ## Decoding -/

theorem instrOfOp_eq_ok_iff (op : BitVec 4) (i : Instr) : instrOfOp op = .ok i ↔ op = i.opcode := by
  cases i <;> revert op <;> decide

theorem instrOfOp_error {op : BitVec 4} {e : DecodeReject} (h : instrOfOp op = .error e) :
    ¬ (1 ≤ op.toNat ∧ op.toNat ≤ 5) := by
  have assigned : ∀ op : BitVec 4, 1 ≤ op.toNat ∧ op.toNat ≤ 5 → (instrOfOp op).toBool = true := by decide
  intro hop
  have := assigned op hop
  rw [h] at this
  cases this

/-- A word that decodes carries its command's OP. -/
theorem opField_of_decode {w : Word} {i : Instr} (h : decode w = .ok i) : opField w = i.opcode := by
  unfold decode at h
  split at h
  · exact (instrOfOp_eq_ok_iff _ _).1 h
  · cases h

/-- A word the decoder rejects is none of the legal words (R81). -/
theorem legalWord_of_decode_error {w : Word} {e : DecodeReject} (h : decode w = .error e) : legalWord w = false := by
  unfold decode at h
  split at h
  · have hop := instrOfOp_error h
    have : opIsAssigned w = false := by
      simp only [opIsAssigned, Bool.and_eq_false_iff, decide_eq_false_iff_not]
      exact not_and_or.1 hop
    simp [legalWord, this]
  · rename_i hrsv
    have : rsvIsZero w = false := beq_eq_false_iff_ne.2 hrsv
    simp [legalWord, this]

/-! ## Completions -/

/-- The engine's turn on a pending command answers, with the report's frame. -/
theorem engineTurn_of_pending {s : State} {p : Pending} (hp : s.pending = some p) :
    ∃ t, s.engineTurn = .next t ∧ t.pending = none ∧ t.status.busy = false ∧ t.status.done = true ∧
      t.status.lastop = opField p.word ∧ t.status.ovr = s.status.ovr ∧ t.ctrlIE = s.ctrlIE ∧ t.cmd = s.cmd ∧
      t.ops = { s.ops with keyMinv := t.ops.keyMinv, keyB := t.ops.keyB } ∧
      t.schedule = s.schedule ∧ t.replies = s.replies := by
  rcases engineTurn_cases s with ⟨hn, -⟩ | ⟨p', i, hp', hd, h⟩ | ⟨p', e, hp', hd, h⟩
  · simp [hn] at hp
  · obtain rfl : p' = p := Option.some.inj (hp'.symm.trans hp)
    have f := ruleOf_frame (s.statusFirst (encode i)) i s.operands
    refine ⟨_, h.trans (exec_eq i s), rfl, f.busy, f.done, f.lastop.trans ?_, f.ovr, f.ctrlIE, f.cmd, f.operands,
      f.schedule, f.replies⟩
    simp [opField_of_decode hd]
  · obtain rfl : p' = p := Option.some.inj (hp'.symm.trans hp)
    exact ⟨_, h, rfl, rfl, rfl, rfl, rfl, rfl, rfl, rfl, rfl, rfl⟩

/-- The registers outside a rule's row of R22 read as before it. -/
theorem RuleFrame.readReg {i : Instr} {s t : State} (f : RuleFrame i s t) {r : RegId} (hi : i ∉ writtenBy r) :
    t.readReg r = s.readReg r := by
  cases r with
  | status | errinfo => exact absurd (by cases i <;> decide) hi
  | id => rfl
  | ctrl => simp only [State.readReg, f.ctrlIE]
  | cmd => exact f.cmd
  | invX | invGcd | invBX | invBY | chainLen =>
    simp only [State.readReg, (f.inv (by simpa [writtenBy] using hi)).1]
  | chainA j | chainB j => simp only [State.readReg, (f.inv (by simpa [writtenBy] using hi)).2]
  | kpsDP | kpsDC | kpsG | kpsM | kpsB => simp only [State.readReg, f.kps (by simpa [writtenBy] using hi)]
  | keyMinv | keyB => simp only [State.readReg, f.key hi]
  | decOut => simp only [State.readReg, f.decOut (by simpa [writtenBy] using hi)]
  | srchCnt => simp only [State.readReg, f.srchCnt hi]
  | invM | invN | kpsP1 | kpsC1 | kpsP2 | kpsC2 | kpsPlen | kpsClen | decIn | srchH0 | srchH1 | sig0 | sig1 =>
    simp only [State.readReg]
    rw [f.operands]

/-- The status writes of R29 change what STATUS and ERRINFO read, which every command writes, and nothing else. -/
theorem statusFirst_readReg (s : State) (w : Word) {i : Instr} {r : RegId} (hi : i ∉ writtenBy r) :
    (s.statusFirst w).readReg r = s.readReg r := by
  cases r with
  | status | errinfo => exact absurd (by cases i <;> decide) hi
  | _ => rfl

end Sys2Proof.Machine
end

section
/-! PROOFS. The register map by offsets, what a host write changes and keeps (R22, R30, R45, R61 to R65), and a step by
its event (R180). -/

namespace Sys2Proof.Machine

/-! ## The register map by offsets (R22, R61) -/

theorem offsetOf_eq (r : RegId) : offsetOf r = 4 * (regIndex r).val := by
  cases r with
  | chainA i | chainB i => revert i; decide
  | _ => decide

theorem regAt_iff_offset (i : Fin 64) (r : RegId) : regAt i = some r ↔ 4 * i.val = offsetOf r := by
  rw [regAt_eq_some_iff, offsetOf_eq, Fin.ext_iff]
  omega

theorem regRead_of_regAt {i : Fin 64} {r : RegId} (h : regAt i = some r) (s : State) : s.regRead i = s.readReg r := by
  simp [State.regRead, h]

theorem regRead_of_unmapped {i : Fin 64} (h : regAt i = none) (s : State) : s.regRead i = 0 := by
  simp [State.regRead, h]

theorem regAt_eq_status_iff (i : Fin 64) : regAt i = some .status ↔ i = 2 := regAt_eq_some_iff i .status

theorem regAt_eq_cmd_iff (i : Fin 64) : regAt i = some .cmd ↔ i = 3 := regAt_eq_some_iff i .cmd

/-- The read-write indices are those of the registers with access code rw (R22). -/
theorem regAccess_of_readWrite {i : Fin 64} {r : RegId} (hi : i.val ∈ readWriteIndices) (hr : regAt i = some r) :
    regAccess r = .rw := by
  have table : ∀ i : Fin 64, i.val ∈ readWriteIndices → ∀ r ∈ regAt i, regAccess r = .rw := by decide
  exact table i hi r (by simp [hr])

/-! ## RegWrite by index (R30, R62, R64) -/

theorem regWrite_status_index (s : State) (v : Word) : s.regWrite 2 v = s.writeStatus v := by
  rw [State.regWrite, if_pos ((regAt_eq_status_iff 2).2 rfl)]

theorem regWrite_of_busy {s : State} {i : Fin 64} (hi : i ≠ 2) (hb : s.status.busy = true) (v : Word) :
    s.regWrite i v = s.ignoreBusy := by
  rw [State.regWrite, if_neg (mt (regAt_eq_status_iff i).1 hi), if_pos hb]

theorem regWrite_of_idle {s : State} {i : Fin 64} {r : RegId} (hr : regAt i = some r) (hs : r ≠ .status)
    (hb : s.status.busy = false) (v : Word) : s.regWrite i v = s.writeReg r v := by
  rw [State.regWrite, hr, if_neg (by simpa using hs), if_neg (by simp [hb])]

/-- OVR after a host write: a write to STATUS clears it by bit 3, any other sets it while busy (R28, R30, R64). -/
theorem regWrite_ovr (s : State) (i : Fin 64) (v : Word) :
    (s.regWrite i v).status.ovr =
      if i = 2 then s.status.ovr && !v.getLsbD 3 else s.status.ovr || s.status.busy := by
  rcases regWrite_cases i v s with ⟨hr, h⟩ | ⟨hr, hb, h⟩ | ⟨hr, hb, h⟩ | ⟨r, hr, hs, hb, h⟩ <;> rw [h]
  · rw [if_pos ((regAt_eq_status_iff i).1 hr)]
    cases hv : v.getLsbD 3 <;> simp [-BitVec.getLsbD_eq_getElem, hv]
  · rw [if_neg (mt (regAt_eq_status_iff i).2 hr)]
    simp [hb]
  · rw [if_neg (mt (regAt_eq_status_iff i).2 (by simp [hr]))]
    simp [hb]
  · rw [if_neg (mt (regAt_eq_status_iff i).2 (by simpa [hr] using hs))]
    rcases writeReg_cases r v s with ⟨-, h⟩ | ⟨-, h⟩ | ⟨-, -, h⟩ | ⟨rfl, -⟩ | ⟨-, h⟩
    · simp [h, hb]
    · simp [h, hb]
    · simp [h, hb]
    · exact absurd rfl hs
    · simp [h, hb]

/-- The pending command after a host write: the one before it, or the snapshot of a write to CMD while idle (R63). -/
theorem regWrite_pending (s : State) (i : Fin 64) (v : Word) :
    (s.regWrite i v).pending =
      if i = 3 ∧ s.status.busy = false then some { word := v, ops := s.ops } else s.pending := by
  rcases regWrite_cases i v s with ⟨hr, h⟩ | ⟨hr, hb, h⟩ | ⟨hr, hb, h⟩ | ⟨r, hr, hs, hb, h⟩ <;> rw [h]
  · obtain rfl := (regAt_eq_status_iff i).1 hr
    rfl
  · simp [hb]
  · rw [if_neg fun hi => by simp [(regAt_eq_cmd_iff i).2 hi.1] at hr]
  · have other : r ≠ .cmd → ¬ (i = 3 ∧ s.status.busy = false) := fun hc hi =>
      hc (Option.some.inj (hr.symm.trans ((regAt_eq_cmd_iff i).2 hi.1)))
    rcases writeReg_cases r v s with ⟨hro, h⟩ | ⟨rfl, h⟩ | ⟨hrw, -, h⟩ | ⟨rfl, -⟩ | ⟨rfl, h⟩
    · rw [h, if_neg (other fun hc => by simp [hc, regAccess] at hro)]
    · rw [h, if_neg (other (by decide))]
    · rw [h, if_neg (other fun hc => by simp [hc, regAccess] at hrw)]
    · exact absurd rfl hs
    · rw [h, if_pos ⟨(regAt_eq_cmd_iff i).1 hr, hb⟩]
      rfl

/-! ## What an operand register stores (R45) -/

section
variable (r : RegId) (v : Word) (o : OperandRegs)

@[simp] theorem store_invM : (o.store r v).invM = if r = .invM then v else o.invM := by cases r <;> rfl
@[simp] theorem store_invN : (o.store r v).invN = if r = .invN then v else o.invN := by cases r <;> rfl
@[simp] theorem store_kpsP1 : (o.store r v).kpsP1 = if r = .kpsP1 then v.setWidth 8 else o.kpsP1 := by cases r <;> rfl
@[simp] theorem store_kpsC1 : (o.store r v).kpsC1 = if r = .kpsC1 then v.setWidth 8 else o.kpsC1 := by cases r <;> rfl
@[simp] theorem store_kpsP2 : (o.store r v).kpsP2 = if r = .kpsP2 then v.setWidth 8 else o.kpsP2 := by cases r <;> rfl
@[simp] theorem store_kpsC2 : (o.store r v).kpsC2 = if r = .kpsC2 then v.setWidth 8 else o.kpsC2 := by cases r <;> rfl
@[simp] theorem store_kpsPlen : (o.store r v).kpsPlen = if r = .kpsPlen then v else o.kpsPlen := by cases r <;> rfl
@[simp] theorem store_kpsClen : (o.store r v).kpsClen = if r = .kpsClen then v else o.kpsClen := by cases r <;> rfl
@[simp] theorem store_keyMinv : (o.store r v).keyMinv = if r = .keyMinv then v.setWidth 8 else o.keyMinv := by
  cases r <;> rfl
@[simp] theorem store_keyB : (o.store r v).keyB = if r = .keyB then v.setWidth 8 else o.keyB := by cases r <;> rfl
@[simp] theorem store_decIn : (o.store r v).decIn = if r = .decIn then v.setWidth 8 else o.decIn := by cases r <;> rfl
@[simp] theorem store_srchH0 : (o.store r v).srchH0 = if r = .srchH0 then v.setWidth 8 else o.srchH0 := by
  cases r <;> rfl
@[simp] theorem store_srchH1 : (o.store r v).srchH1 = if r = .srchH1 then v.setWidth 8 else o.srchH1 := by
  cases r <;> rfl
@[simp] theorem store_sig0 : (o.store r v).sig0 = if r = .sig0 then v.setWidth 8 else o.sig0 := by cases r <;> rfl
@[simp] theorem store_sig1 : (o.store r v).sig1 = if r = .sig1 then v.setWidth 8 else o.sig1 := by cases r <;> rfl

end

/-- A write to a read-write register, as the update of CTRL.IE and of the operand registers (R24, R45). -/
theorem storeReg_eq (r : RegId) (v : Word) (s : State) :
    s.storeReg r v = { s with ctrlIE := if r = .ctrl then v.getLsbD 0 else s.ctrlIE, ops := s.ops.store r v } := by
  cases r <;> rfl

/-- A register reads as before after a write to another one. -/
theorem readReg_storeReg_of_ne {r r' : RegId} (h : r ≠ r') (v : Word) (s : State) :
    (s.storeReg r v).readReg r' = s.readReg r' := by
  rw [storeReg_eq]
  cases r' with
  | ctrl | invM | invN | kpsP1 | kpsC1 | kpsP2 | kpsC2 | kpsPlen | kpsClen | keyMinv | keyB | decIn | srchH0 | srchH1
  | sig0 | sig1 => simp [State.readReg, h]
  | _ => rfl

/-! ## Stored bits as masks (R45) -/

theorem getLsbD_lowMask {k i : Nat} (hi : i < 32) : (BitVec.ofNat 32 (2 ^ k - 1)).getLsbD i = decide (i < k) := by
  rw [BitVec.getLsbD_ofNat, Nat.testBit_two_pow_sub_one, decide_eq_true hi, Bool.true_and]

/-- Keeping the low k bits of a word is masking it. -/
theorem setWidth_setWidth_eq_and (k : Nat) (v : Word) :
    (v.setWidth k).setWidth 32 = v &&& BitVec.ofNat 32 (2 ^ k - 1) := by
  apply BitVec.eq_of_getLsbD_eq
  intro i hi
  rw [BitVec.getLsbD_and, getLsbD_lowMask hi, BitVec.getLsbD_setWidth, BitVec.getLsbD_setWidth, decide_eq_true hi,
    Bool.true_and, Bool.and_comm]

/-- A word below 2^k has no bit outside the low k. -/
theorem and_not_lowMask {k : Nat} {w : Word} (h : w.toNat < 2 ^ k) : w &&& ~~~BitVec.ofNat 32 (2 ^ k - 1) = 0 := by
  apply BitVec.eq_of_getLsbD_eq
  intro i hi
  rw [BitVec.getLsbD_and, BitVec.getLsbD_not, getLsbD_lowMask hi]
  by_cases hik : i < k
  · simp [hik]
  · have hbit : w.getLsbD i = false :=
      Nat.testBit_eq_false_of_lt (h.trans_le (Nat.pow_le_pow_right (by decide) (not_lt.1 hik)))
    simp [hbit]

/-- The words of the chain buffer store two 9-bit fields (R44). -/
theorem chainWord_and_not_mask (hi lo : BitVec 9) :
    ((0 : BitVec 7) ++ hi ++ (0 : BitVec 7) ++ lo) &&& ~~~(0x01FF01FF : Word) = 0 := by
  have hmask : ~~~(0x01FF01FF : Word) = 0x7F#7 ++ 0#9 ++ 0x7F#7 ++ 0#9 := by decide
  rw [hmask, BitVec.and_append, BitVec.and_append, BitVec.and_append]
  simp

/-- STATUS is a word below 2^12 (R25). -/
theorem Status.word_lt (st : Status) : st.word.toNat < 2 ^ 12 := by
  have hb := st.busy.toNat_le
  have hd := st.done.toNat_le
  have hf := st.found.toNat_le
  have ho := st.ovr.toNat_le
  have he := st.err.isLt
  have hr := st.red.toNat_le
  have hl := st.lastop.isLt
  rw [st.word_toNat]
  omega

/-- A read-write register reads back the stored bits of the word written to it. -/
theorem readReg_storeReg_self {r : RegId} (h : regAccess r = .rw) (v : Word) (s : State) :
    (s.storeReg r v).readReg r = v &&& storedMask r := by
  cases r with
  | ctrl => exact (congrArg (BitVec.setWidth 32) BitVec.setWidth_one.symm).trans (setWidth_setWidth_eq_and 1 v)
  | invM | invN | kpsPlen | kpsClen => exact (BitVec.and_allOnes (x := v)).symm
  | kpsP1 | kpsC1 | kpsP2 | kpsC2 | keyMinv | keyB | decIn | srchH0 | srchH1 | sig0 | sig1 =>
    exact setWidth_setWidth_eq_and 8 v
  | _ => cases h

/-- No register reads a bit it does not store (R22). -/
theorem readReg_and_not_storedMask (r : RegId) (s : State) : s.readReg r &&& ~~~storedMask r = 0 := by
  have stored : ∀ {k : Nat} (x : BitVec k), k ≤ 32 → x.setWidth 32 &&& ~~~BitVec.ofNat 32 (2 ^ k - 1) = 0 :=
    fun x hk => and_not_lowMask (by rw [BitVec.toNat_setWidth_of_le hk]; exact x.isLt)
  cases r with
  | id | cmd | errinfo | invM | invN | invBX | invBY | kpsPlen | kpsClen => exact BitVec.and_zero
  | status => exact and_not_lowMask (k := 12) s.status.word_lt
  | chainA i => exact chainWord_and_not_mask s.chain[i].q s.chain[i].p
  | chainB i => exact chainWord_and_not_mask s.chain[i].r s.chain[i].k
  | _ => exact stored _ (by decide)

/-- The word a register reads shows its fields at their bits (R22, R25, R44). -/
theorem readReg_shows (r : RegId) (s : State) : s.Shows r (s.readReg r) := by
  have value : ∀ {k : Nat} (x : BitVec k), k ≤ 32 → (x.setWidth 32).toNat = x.toNat :=
    fun x hk => BitVec.toNat_setWidth_of_le hk
  cases r with
  | id | cmd | errinfo | invM | invN | invBX | invBY | kpsPlen | kpsClen => exact rfl
  | ctrl =>
    have bit : ∀ b : Bool, ((BitVec.ofBool b).setWidth 32).getLsbD 0 = b ∧
        ((BitVec.ofBool b).setWidth 32).extractLsb 31 1 = 0 := by decide
    exact bit s.ctrlIE
  | status => exact s.status.word_fields
  | chainA i => exact s.chain[i].wordA_fields
  | chainB i => exact s.chain[i].wordB_fields
  | _ => exact value _ (by decide)

/-! ## One step by its event (R180) -/

/-- A whole-word access writes its index; any other that is answered is a read (R61, R67, R68). -/
theorem access_next_write {a : Access} {s t : State} (h : s.access a = .next t) :
    (wholeWordWrite a = none ∧ ∃ r, t = s.reply r) ∨
      ∃ i v, wholeWordWrite a = some (i, v) ∧ t = s.regWrite i v := by
  cases a with
  | read i => exact .inl ⟨rfl, _, (Host.Outcome.next.inj h).symm⟩
  | write i v => exact .inr ⟨i, v, rfl, (Host.Outcome.next.inj h).symm⟩
  | laneRead addr lanes => exact .inl ⟨rfl, _, (Host.Outcome.next.inj h).symm⟩
  | laneWrite addr lanes b3 b2 b1 b0 =>
    by_cases hl : lanes = BitVec.allOnes 4
    · rw [State.access, if_pos hl] at h
      exact .inr ⟨_, _, if_pos hl, (Host.Outcome.next.inj h).symm⟩
    · rw [State.access, if_neg hl] at h
      cases h

/-- What a step that answers did, with the event it took: `u` is the state less that event. -/
inductive StepEvent (s u t : State) : Prop
  /-- the engine's turn -/
  | engine (hs : s.schedule = [] ∨ ∃ rest, s.schedule = .engine :: rest) (ht : u.engineTurn = .next t)
  /-- a host access that only reads -/
  | read (a : Access) (rest : List Event) (hs : s.schedule = .host a :: rest) (ha : wholeWordWrite a = none)
      (r : Reply) (ht : t = u.reply r)
  /-- a whole-word write -/
  | write (a : Access) (rest : List Event) (hs : s.schedule = .host a :: rest) (i : Fin 64) (v : Word)
      (ha : wholeWordWrite a = some (i, v)) (ht : t = u.regWrite i v)
  /-- a reset -/
  | reset (rest : List Event) (hs : s.schedule = .reset :: rest) (ht : t = u.resetEvent)
  /-- an access while reset is held -/
  | inReset (a : Access) (rest : List Event) (hs : s.schedule = .hostInReset a :: rest)
      (ht : t = u.resetEvent ∨ ∃ r, t = u.resetEvent.reply r)

/-- Step inversion by the event taken. -/
theorem step_next_event {s t : State} (h : step s = .next t) :
    s.status.err ≠ 7 ∧ StepEvent s { s with schedule := s.schedule.tail } t := by
  unfold step State.advance at h
  by_cases herr : s.status.err = 7
  · rw [if_pos herr] at h
    cases h
  refine ⟨herr, ?_⟩
  rw [if_neg herr] at h
  cases hs : s.schedule with
  | nil =>
    have hu : ({ s with schedule := ([] : List Event).tail } : State) = s := by rw [List.tail_nil, ← hs]
    rw [hs] at h
    exact .engine (.inl hs) (hu ▸ h)
  | cons e rest =>
    rw [hs] at h
    cases e with
    | engine => exact .engine (.inr ⟨rest, hs⟩) h
    | reset => exact .reset rest hs (Host.Outcome.next.inj h).symm
    | hostInReset a => exact .inReset a rest hs (accessInReset_next_cases h)
    | host a =>
      rcases access_next_write h with ⟨ha, r, ht⟩ | ⟨i, v, ha, ht⟩
      · exact .read a rest hs ha r ht
      · exact .write a rest hs i v ha ht

/-- What an engine's turn leaves, with a command pending or not: none is pending after it, OVR stays, and the key
changes only by a command that writes it (R28, R32, R39). -/
theorem engineTurn_next {s t : State} (h : s.engineTurn = .next t) :
    t.pending = none ∧ t.status.ovr = s.status.ovr ∧
      (t.ops = s.ops ∨
        ∃ p i, s.pending = some p ∧ decode p.word = .ok i ∧ i ∈ [Instr.kps, .bfs, .eks]) := by
  rcases engineTurn_cases s with ⟨hn, h'⟩ | ⟨p, i, hp, hd, h'⟩ | ⟨p, e, -, -, h'⟩ <;> rw [h'] at h
  · obtain rfl := Host.Outcome.next.inj h
    exact ⟨hn, rfl, .inl rfl⟩
  · obtain rfl := exec_next_eq h
    have f := ruleOf_frame (s.statusFirst (encode i)) i s.operands
    refine ⟨rfl, f.ovr, ?_⟩
    by_cases hi : i ∈ [Instr.kps, .bfs, .eks]
    · exact .inr ⟨p, i, hp, hd, hi⟩
    · exact .inl (f.key hi)
  · obtain rfl := Host.Outcome.next.inj h
    exact ⟨rfl, rfl, .inl rfl⟩

end Sys2Proof.Machine
end

section
/-! PROOFS. The two invariants of the machine: the control state (R21, R25, R33, R46, R48, R173) and the ranges of the
result registers with the chain buffer (R35, R38, R43, R44, R101, R102). -/

namespace Sys2Proof.Machine

/-! ## The control state -/

section
variable {s : State}

/-- The control state does not mention the results, the schedule or the replies. -/
theorem State.Consistent.congr {t : State} (h : s.Consistent) (hst : t.status = s.status) (hp : t.pending = s.pending)
    (hc : t.cmd = s.cmd) (ho : t.ops = s.ops) (hi : t.errinfo = s.errinfo) : t.Consistent := by
  obtain ⟨h1, h2, h3, h4, h5, h6, h7, h8, h9, h10, h11⟩ := h
  constructor <;> simpa only [hst, hp, hc, ho, hi]

theorem State.Consistent.idle (h : s.Consistent) (hb : s.status.busy = false) : s.pending = none :=
  Option.isNone_iff_eq_none.1 (by rw [← Option.not_isSome, ← h.idle_or_busy, hb]; rfl)

/-- While busy the pending operands are the live ones (R46). -/
theorem State.Consistent.operands_eq (h : s.Consistent) : s.operands = s.ops := by
  cases hp : s.pending with
  | none => exact operands_of_idle hp
  | some p => exact (operands_of_pending hp).trans (h.snapshot_live p hp).2

theorem consistent_resetEvent (s : State) : s.resetEvent.Consistent where
  idle_or_busy := rfl
  snapshot_live := nofun
  busy_not_done := nofun
  err_not_reserved := by simp [Status.reset]
  found_is_search := nofun
  red_is_kps := nofun
  err_of_inverse := by simp [Status.reset]
  err_of_kps := by simp [Status.reset]
  info_of_notCoprime := by simp [Status.reset]
  info_of_illegal := by simp [Status.reset]
  info_otherwise := fun _ _ => rfl

theorem State.Consistent.writeStatus (h : s.Consistent) (v : Word) : (s.writeStatus v).Consistent :=
  { h with busy_not_done := fun hb => by simp [h.busy_not_done hb] }

theorem State.Consistent.ignoreBusy (h : s.Consistent) : s.ignoreBusy.Consistent := { h with }

theorem State.Consistent.accept (h : s.Consistent) (w : Word) : (s.accept w).Consistent :=
  { h with
    idle_or_busy := rfl
    snapshot_live := fun p hp => by obtain rfl := Option.some.inj hp; exact ⟨rfl, rfl⟩
    busy_not_done := fun _ => rfl }

/-- With nothing pending the operand registers and CTRL are the host's to write. -/
theorem State.Consistent.withRegs (h : s.Consistent) (hp : s.pending = none) (ie : Bool) (o : OperandRegs) :
    ({ s with ctrlIE := ie, ops := o } : State).Consistent :=
  { h with snapshot_live := fun p hs => by rw [hp] at hs; cases hs }

theorem State.Consistent.regWrite (h : s.Consistent) (i : Fin 64) (v : Word) : (s.regWrite i v).Consistent := by
  rcases regWrite_cases i v s with ⟨-, hw⟩ | ⟨-, -, hw⟩ | ⟨-, -, hw⟩ | ⟨r, -, -, hb, hw⟩ <;> rw [hw]
  · exact h.writeStatus v
  · exact h.ignoreBusy
  · exact h
  · rcases writeReg_cases r v s with ⟨-, hr⟩ | ⟨-, hr⟩ | ⟨-, -, hr⟩ | ⟨-, hr⟩ | ⟨-, hr⟩ <;> rw [hr]
    · exact h
    · exact h.withRegs (h.idle hb) _ s.ops
    · exact h.withRegs (h.idle hb) s.ctrlIE _
    · exact h.writeStatus v
    · exact h.accept v

/-- An illegal word's completion is consistent from any state (R172). -/
theorem consistent_completeIllegal (s : State) {w : Word} (hw : legalWord w = false) :
    (s.completeIllegal w).Consistent where
  idle_or_busy := rfl
  snapshot_live := nofun
  busy_not_done := nofun
  err_not_reserved := by simp [ErrKind.code]
  found_is_search := nofun
  red_is_kps := nofun
  err_of_inverse := by simp [ErrKind.code]
  err_of_kps := by simp [ErrKind.code]
  info_of_notCoprime := by simp [ErrKind.code]
  info_of_illegal := fun _ => ⟨hw, rfl⟩
  info_otherwise := by simp [ErrKind.code]

/-- The reports of a command with this OP: no error, InvalidDomain of INV and KPS, one of KPS's own errors, or
NotCoprime of INV and KPS with a gcd in ERRINFO (R48, R170). -/
inductive ReportOf (op : BitVec 4) (t : State) : Prop
  | success (he : t.status.err = 0) (hi : t.errinfo = 0)
  | invalidDomain (he : t.status.err = 1) (hi : t.errinfo = 0) (hop : op = 1 ∨ op = 2)
  | ofKps (he : t.status.err = 3 ∨ t.status.err = 4 ∨ t.status.err = 5) (hi : t.errinfo = 0) (hop : op = 2)
  | notCoprime (he : t.status.err = 2) (hi : t.InfoIsGcd) (hop : op = 1 ∨ op = 2)

/-- After a completion the control state is consistent as soon as ERR, FOUND and RED are the command's to leave. -/
theorem consistent_of_report {t : State} (hb : t.status.busy = false) (hp : t.pending = none)
    (hfound : t.status.found = true → t.status.err = 0 ∧ (t.status.lastop = 4 ∨ t.status.lastop = 5))
    (hred : t.status.red = true → t.status.lastop = 2) (hrep : ReportOf t.status.lastop t) : t.Consistent := by
  have control : t.status.busy = t.pending.isSome ∧ (∀ p, t.pending = some p → p.word = t.cmd ∧ p.ops = t.ops) ∧
      (t.status.busy = true → t.status.done = false) := by simp [hb, hp]
  obtain ⟨h1, h2, h3⟩ := control
  cases hrep with
  | success he hi =>
    refine ⟨h1, h2, h3, ?_, hfound, fun h => ⟨hred h, ?_⟩, ?_, ?_, ?_, ?_, fun _ _ => hi⟩ <;> simp [he]
  | invalidDomain he hi hop =>
    refine ⟨h1, h2, h3, ?_, hfound, fun h => ⟨hred h, ?_⟩, fun _ => hop, ?_, ?_, ?_, fun _ _ => hi⟩ <;> simp [he]
  | ofKps he hi hop =>
    refine ⟨h1, h2, h3, ?_, hfound, fun h => ⟨hred h, ?_⟩, fun _ => .inr hop, fun _ => hop, ?_, ?_, fun _ _ => hi⟩ <;>
      rcases he with he | he | he <;> simp [he]
  | notCoprime he hi hop =>
    refine ⟨h1, h2, h3, ?_, hfound, fun h => ⟨hred h, ?_⟩, fun _ => hop, ?_, fun _ => hi, ?_, fun h => absurd he h⟩ <;>
      simp [he]

/-- The completion of a legal command is consistent from any state. -/
theorem consistent_complete (s : State) (i : Instr) : (s.complete i (ruleOf i)).Consistent := by
  have f := ruleOf_frame (s.statusFirst (encode i)) i s.operands
  have fresh := statusFirst_fresh s (encode i)
  have hop : (s.complete i (ruleOf i)).status.lastop = i.opcode := f.lastop.trans (opField_encode i)
  cases i with
  | inv =>
    obtain ⟨hfound, hred, hrep⟩ := invRule_report fresh s.operands
    refine consistent_of_report f.busy rfl (fun h => absurd (hfound.symm.trans h) nofun)
      (fun h => absurd (hred.symm.trans h) nofun) (hop ▸ ?_)
    rcases hrep with ⟨he | he, hi⟩ | ⟨he, hi, -⟩
    · exact .success he hi
    · exact .invalidDomain he hi (.inl rfl)
    · exact .notCoprime he hi (.inl rfl)
  | kps =>
    obtain ⟨hfound, hrep⟩ := kpsRule_report fresh s.operands
    refine consistent_of_report f.busy rfl (fun h => absurd (hfound.symm.trans h) nofun) (fun _ => hop) (hop ▸ ?_)
    rcases hrep with ⟨he, hi⟩ | ⟨he, hi, -⟩
    · simp only [List.mem_cons, List.not_mem_nil, or_false] at he
      rcases he with he | he | he
      · exact .success he hi
      · exact .invalidDomain he hi (.inr rfl)
      · exact .ofKps he hi rfl
    · exact .notCoprime he hi (.inr rfl)
  | dec =>
    obtain ⟨he, hfound, hred, hi⟩ := decRule_report fresh s.operands
    exact consistent_of_report f.busy rfl (fun h => absurd (hfound.symm.trans h) nofun)
      (fun h => absurd (hred.symm.trans h) nofun) (.success he hi)
  | bfs =>
    obtain ⟨he, hred, hi⟩ := searchRule_report fresh allMinvs s.operands
    exact consistent_of_report f.busy rfl (fun _ => ⟨he, .inl hop⟩) (fun h => absurd (hred.symm.trans h) nofun)
      (.success he hi)
  | eks =>
    obtain ⟨he, hred, hi⟩ := searchRule_report fresh coprimeMinvs s.operands
    exact consistent_of_report f.busy rfl (fun _ => ⟨he, .inr hop⟩) (fun h => absurd (hred.symm.trans h) nofun)
      (.success he hi)

theorem State.Consistent.engineTurn {t : State} (h : s.Consistent) (ht : s.engineTurn = .next t) : t.Consistent := by
  rcases engineTurn_cases s with ⟨-, he⟩ | ⟨p, i, -, -, he⟩ | ⟨p, e, -, hd, he⟩ <;> rw [he] at ht
  · exact Host.Outcome.next.inj ht ▸ h
  · exact exec_next_eq ht ▸ consistent_complete s i
  · exact Host.Outcome.next.inj ht ▸ consistent_completeIllegal s (legalWord_of_decode_error hd)

end

/-- Settles O55: each event of a step keeps the control state consistent. -/
theorem stepKeepsTheControlState : Obligations.StepKeepsTheControlState := by
  intro s t h hstep
  obtain ⟨-, hev⟩ := step_next_event hstep
  have hu : ({ s with schedule := s.schedule.tail } : State).Consistent := h.congr rfl rfl rfl rfl rfl
  cases hev with
  | engine hs ht => exact hu.engineTurn ht
  | read a rest hs ha r ht => exact ht ▸ hu.congr rfl rfl rfl rfl rfl
  | write a rest hs i v ha ht => exact ht ▸ hu.regWrite i v
  | reset rest hs ht => exact ht ▸ consistent_resetEvent _
  | inReset a rest hs ht =>
    rcases ht with ht | ⟨r, ht⟩
    · exact ht ▸ consistent_resetEvent _
    · exact ht ▸ (consistent_resetEvent s).congr rfl rfl rfl rfl rfl

/-! ## The result registers -/

/-- The chain buffer's part of the ranges: buf holds one division pass of len steps and zeros from there on. -/
structure HoldsChain (len : BitVec 4) (buf : Vector ChainEntry 11) : Prop where
  len_le : len.toNat ≤ 11
  step : ∀ i : Fin 11, i.val < len.toNat →
    1 ≤ buf[i].p.toNat ∧ buf[i].p.toNat ≤ buf[i].q.toNat ∧ buf[i].k.toNat = buf[i].q.toNat / buf[i].p.toNat ∧
      buf[i].r.toNat = buf[i].q.toNat % buf[i].p.toNat
  next : ∀ i j : Fin 11, j.val = i.val + 1 → j.val < len.toNat → buf[j].p = buf[i].r ∧ buf[j].q = buf[i].p
  last : ∀ i : Fin 11, i.val < len.toNat → (buf[i].r = 0 ↔ i.val + 1 = len.toNat)
  zero : ∀ i : Fin 11, len.toNat ≤ i.val → buf[i] = ChainEntry.zero

theorem bufferOf_getElem (S : List ModuloStep) (i : Fin 11) : (bufferOf S)[i] = entryAt S i.val := by
  fin_cases i <;> rfl

/-- A step of a chain of the domain fits the 9-bit fields of its entry (R44, R103). -/
theorem entry_toNat {st : ModuloStep} (hq : st.q ≤ 256) (hp : st.p ≤ st.q) (hp1 : 1 ≤ st.p) (hk : st.k = st.q / st.p)
    (hr : st.r = st.q % st.p) :
    st.entry.p.toNat = st.p ∧ st.entry.q.toNat = st.q ∧ st.entry.k.toNat = st.k ∧ st.entry.r.toNat = st.r := by
  have := Nat.div_le_self st.q st.p
  have := Nat.mod_lt st.q hp1
  simp only [ModuloStep.entry, BitVec.toNat_ofNat]
  omega

/-- Entry i of the buffer below the chain's end is the chain's step i, number by number. -/
theorem bufferOf_chain_entry {m n : Nat} (hm : 1 ≤ m) (hmn : m < n) (hn : n ≤ 256) {i : Fin 11}
    (hi : i.val < (chain m n).length) :
    ∃ st, (chain m n)[i.val]? = some st ∧ (bufferOf (chain m n))[i] = st.entry ∧
      st.entry.p.toNat = st.p ∧ st.entry.q.toNat = st.q ∧ st.entry.k.toNat = st.k ∧ st.entry.r.toNat = st.r := by
  have hst := List.getElem?_eq_getElem hi
  obtain ⟨hp, hpq, hk, hr, -, -⟩ := chain_isPass m n hm hmn.le _ _ hst
  have hq := (chain_le m n hm hmn.le _ (List.getElem_mem hi)).2
  refine ⟨_, hst, ?_, entry_toNat (by omega) hpq hp hk hr⟩
  rw [bufferOf_getElem, entryAt, hst]

/-- After an INV of the domain the buffer holds the chain (R101, R102). -/
theorem holdsChain_bufferOf {m n : Nat} (hm : 1 ≤ m) (hmn : m < n) (hn : n ≤ 256) :
    HoldsChain (BitVec.ofNat 4 (chain m n).length) (bufferOf (chain m n)) := by
  have hle := chain_length_le m n hm hmn hn
  have hlen : (BitVec.ofNat 4 (chain m n).length).toNat = (chain m n).length := by
    rw [BitVec.toNat_ofNat, Nat.mod_eq_of_lt (by omega)]
  have pass := chain_isPass m n hm hmn.le
  constructor <;> rw [hlen]
  case len_le => exact hle
  case step =>
    intro i hi
    obtain ⟨st, hst, he, hp, hq, hk, hr⟩ := bufferOf_chain_entry hm hmn hn hi
    obtain ⟨h1, h2, h3, h4, -, -⟩ := pass _ st hst
    rw [he, hp, hq, hk, hr]
    exact ⟨h1, h2, h3, h4⟩
  case next =>
    intro i j hij hj
    obtain ⟨st, hst, he, -⟩ := bufferOf_chain_entry (i := i) hm hmn hn (by omega)
    obtain ⟨st', hst', he', -⟩ := bufferOf_chain_entry hm hmn hn hj
    obtain ⟨-, -, -, -, -, hnext⟩ := pass _ st hst
    obtain ⟨hp, hq⟩ := hnext st' (hij ▸ hst')
    rw [he, he']
    exact ⟨congrArg (BitVec.ofNat 9) hp, congrArg (BitVec.ofNat 9) hq⟩
  case last =>
    intro i hi
    obtain ⟨st, hst, he, -, -, -, hr⟩ := bufferOf_chain_entry hm hmn hn hi
    obtain ⟨-, -, -, -, hlast, -⟩ := pass _ st hst
    rw [he, ← hlast, ← hr]
    exact BitVec.toNat_inj.symm
  case zero =>
    intro i hi
    rw [bufferOf_getElem, entryAt, List.getElem?_eq_none hi]

theorem holdsChain_reset : HoldsChain 0 (Vector.replicate 11 ChainEntry.zero) where
  len_le := by decide
  step := nofun
  next := nofun
  last := nofun
  zero := fun i _ => by simp

theorem State.ResultsInRange.holdsChain {s : State} (h : s.ResultsInRange) : HoldsChain s.inv.len s.chain :=
  ⟨h.chain_len, h.chain_step, h.chain_next, h.chain_last, h.chain_zero⟩

/-- The ranges, with those of the chain buffer as one. -/
theorem resultsInRange_of {s : State} (hc : HoldsChain s.inv.len s.chain) (hgcd : s.inv.gcd.toNat ≤ 128)
    (hbx : -127 ≤ s.inv.bx.toInt ∧ s.inv.bx.toInt ≤ 127) (hby : -127 ≤ s.inv.by_.toInt ∧ s.inv.by_.toInt ≤ 127)
    (hg : s.kps.g = 0 ∨ ∃ e : Fin 9, s.kps.g.toNat = 2 ^ e.val) (hcnt : s.srchCnt.toNat ≤ 65280) :
    s.ResultsInRange :=
  ⟨hc.len_le, hgcd, hbx, hby, hg, hcnt, hc.step, hc.next, hc.last, hc.zero⟩

section
variable {s : State} (h : s.ResultsInRange)
include h

/-- The ranges speak of the results of INV, KPS_G and SRCH_CNT only. -/
theorem State.ResultsInRange.congr {t : State} (hinv : t.inv = s.inv) (hchain : t.chain = s.chain)
    (hg : t.kps.g = s.kps.g) (hcnt : t.srchCnt = s.srchCnt) : t.ResultsInRange :=
  resultsInRange_of (by rw [hinv, hchain]; exact h.holdsChain) (hinv ▸ h.gcd_range) (hinv ▸ h.bx_range)
    (hinv ▸ h.by_range) (hg ▸ h.g_range) (hcnt ▸ h.cnt_range)

theorem State.ResultsInRange.writeChain {m n : Nat} (hm : 1 ≤ m) (hmn : m < n) (hn : n ≤ 256) :
    (s.writeChain (Machine.chain m n)).ResultsInRange := by
  refine resultsInRange_of (holdsChain_bufferOf hm hmn hn) ?_ h.bx_range h.by_range h.g_range h.cnt_range
  have := two_mul_gcd_le hm hmn
  simp only [State.writeChain_inv, chainGcd_chain m n hm, BitVec.toNat_ofNat]
  omega

theorem State.ResultsInRange.writeBezout {x y : Int} (hx : -127 ≤ x ∧ x ≤ 127) (hy : -127 ≤ y ∧ y ≤ 127) (n : Nat) :
    (s.writeBezout x y n).ResultsInRange := by
  have sext : ∀ z : Int, -127 ≤ z ∧ z ≤ 127 → -127 ≤ (sext32 z).toInt ∧ (sext32 z).toInt ≤ 127 := fun z hz => by
    rwa [sext32, BitVec.toInt_ofInt, Int.bmod_eq_of_le (by norm_num; omega) (by norm_num; omega)]
  exact resultsInRange_of h.holdsChain h.gcd_range (sext x hx) (sext y hy) h.g_range h.cnt_range

/-- KPS_G is a divisor of 256, so a power of two (R125). -/
theorem State.ResultsInRange.writeDiffs (dp dc : Nat) {g : Nat} (hg : g ∣ 2 ^ 8) :
    (s.writeDiffs dp dc g).ResultsInRange := by
  refine resultsInRange_of h.holdsChain h.gcd_range h.bx_range h.by_range (.inr ?_) h.cnt_range
  obtain ⟨e, he, rfl⟩ := (Nat.dvd_prime_pow Nat.prime_two).1 hg
  refine ⟨⟨e, by omega⟩, ?_⟩
  have := Nat.pow_le_pow_right (n := 2) (by decide) he
  simp only [State.writeDiffs_kps, BitVec.toNat_ofNat]
  omega

theorem State.ResultsInRange.writeCount {n : Nat} (hn : n ≤ 65280) : (s.writeCount n).ResultsInRange := by
  refine resultsInRange_of h.holdsChain h.gcd_range h.bx_range h.by_range h.g_range ?_
  simp only [State.writeCount_srchCnt, BitVec.toNat_ofNat]
  omega

theorem invRule_inRange (o : OperandRegs) : (invRule o s).ResultsInRange := by
  rcases invRule_cases o s with ⟨-, hr⟩ | ⟨hd, -, hr⟩ | ⟨hd, hg, hr⟩ <;> rw [hr]
  · exact h.congr rfl rfl rfl rfl
  · obtain ⟨-, hn, hm, hmn⟩ := (inDomain_iff _ _).1 hd
    exact (h.writeChain hm (by omega) hn).congr rfl rfl rfl rfl
  · obtain ⟨-, hn, hm, hmn⟩ := (inDomain_iff _ _).1 hd
    rw [chainGcd_chain _ _ hm] at hg
    obtain ⟨hx, hy⟩ := fold_chain_range hm (by omega) hn hg
    exact (h.writeChain hm (by omega) hn).writeBezout hx hy _

theorem finalInverse_inRange (m b : Nat) : (s.finalInverse m b).ResultsInRange := by
  rcases finalInverse_cases m b s with ⟨-, hr⟩ | ⟨-, -, hr⟩ | ⟨-, -, hr⟩ <;> rw [hr] <;>
    exact h.congr rfl rfl rfl rfl

theorem kpsRule_inRange (o : OperandRegs) : (kpsRule o s).ResultsInRange := by
  have diffs : ∀ t : Samples, (s.writeDiffs t.dp t.dc (Nat.gcd t.dp 256)).ResultsInRange :=
    fun t => h.writeDiffs _ _ (Nat.gcd_dvd_right t.dp 256)
  rcases kpsRule_cases o s with ⟨-, hr⟩ | ⟨-, -, hr⟩ | ⟨-, -, hr⟩ <;> rw [hr]
  · exact h.congr rfl rfl rfl rfl
  · exact h.congr rfl rfl rfl rfl
  · rcases solveRule_cases (samplesOf o).order s with ⟨e, -, hr⟩ | ⟨m, red, -, hr⟩ <;> rw [hr]
    · exact (diffs _).congr rfl rfl rfl rfl
    · refine finalInverse_inRange ?_ _ _
      exact (diffs _).congr rfl rfl rfl rfl

/-- A search counts at most all its candidates, 256 for each m⁻¹ (R156). -/
theorem searchRule_inRange {mis : List Nat} (hmis : mis.length ≤ 255) (o : OperandRegs) :
    (searchRule mis o s).ResultsInRange := by
  have hcount : (firstMatch (isMatch o) (candidates mis) 0).2 ≤ 65280 := by
    have hlen := length_candidates mis
    rcases firstMatch_cases (isMatch o) (candidates mis) 0 with ⟨hf, -⟩ | ⟨pre, c, post, hl, -, -, hf⟩ <;> rw [hf]
    · dsimp only
      omega
    · rw [hl, List.length_append, List.length_cons] at hlen
      dsimp only
      omega
  unfold searchRule
  rcases writeSearch_cases (firstMatch (isMatch o) (candidates mis) 0) s with ⟨c, -, hr⟩ | ⟨-, hr⟩ <;> rw [hr]
  · refine State.ResultsInRange.writeCount ?_ hcount
    exact h.congr rfl rfl rfl rfl
  · exact h.writeCount hcount

theorem ruleOf_inRange (i : Instr) (o : OperandRegs) : (ruleOf i o s).ResultsInRange := by
  have hall : allMinvs.length = 255 := List.length_range'
  cases i with
  | inv => exact invRule_inRange h o
  | kps => exact kpsRule_inRange h o
  | dec => exact h.congr rfl rfl rfl rfl
  | bfs => exact searchRule_inRange h hall.le o
  | eks => exact searchRule_inRange h (hall ▸ List.length_filter_le _ _) o

theorem State.ResultsInRange.engineTurn {t : State} (ht : s.engineTurn = .next t) : t.ResultsInRange := by
  rcases engineTurn_cases s with ⟨-, he⟩ | ⟨p, i, -, -, he⟩ | ⟨p, e, -, -, he⟩ <;> rw [he] at ht
  · exact Host.Outcome.next.inj ht ▸ h
  · have hfirst : (s.statusFirst (encode i)).ResultsInRange := h.congr rfl rfl rfl rfl
    exact exec_next_eq ht ▸ (ruleOf_inRange hfirst i s.operands).congr rfl rfl rfl rfl
  · exact Host.Outcome.next.inj ht ▸ h.congr rfl rfl rfl rfl

theorem State.ResultsInRange.regWrite (i : Fin 64) (v : Word) : (s.regWrite i v).ResultsInRange := by
  obtain ⟨-, hinv, hchain, hkps, -, hcnt, -, -⟩ := regWrite_frame i v s
  exact h.congr hinv hchain (congrArg KpsRegs.g hkps) hcnt

end

theorem resultsInRange_resetEvent (s : State) : s.resetEvent.ResultsInRange := by
  have hreset : State.reset.ResultsInRange :=
    resultsInRange_of holdsChain_reset (by decide) (by decide) (by decide) (.inl rfl) (by decide)
  exact hreset.congr rfl rfl rfl rfl

/-- Settles O56: each event of a step keeps the results in range. -/
theorem stepKeepsResultsInRange : Obligations.StepKeepsResultsInRange := by
  intro s t h hstep
  obtain ⟨-, hev⟩ := step_next_event hstep
  have hu : ({ s with schedule := s.schedule.tail } : State).ResultsInRange := h.congr rfl rfl rfl rfl
  cases hev with
  | engine hs ht => exact hu.engineTurn ht
  | read a rest hs ha r ht => exact ht ▸ hu.congr rfl rfl rfl rfl
  | write a rest hs i v ha ht => exact ht ▸ hu.regWrite i v
  | reset rest hs ht => exact ht ▸ resultsInRange_resetEvent _
  | inReset a rest hs ht =>
    rcases ht with ht | ⟨r, ht⟩
    · exact ht ▸ resultsInRange_resetEvent _
    · exact ht ▸ (resultsInRange_resetEvent s).congr rfl rfl rfl rfl

/-- Settles O54: the reset state is the state a reset event leaves. -/
theorem resetMeetsTheInvariants : Obligations.ResetMeetsTheInvariants :=
  ⟨consistent_resetEvent State.reset, resultsInRange_resetEvent State.reset⟩

end Sys2Proof.Machine
end

section
/-! PROOFS. The statements about completions, INV, the host's accesses and single steps. -/

namespace Sys2Proof.Machine

/-! ## Completions -/

/-- Settles O7. -/
theorem everyPendingCommandCompletes : Obligations.EveryPendingCommandCompletes :=
  fun _ _ hp => engineTurn_of_pending hp

/-- Settles O8: neither the status writes of R29 nor the command's rule reach a register outside its row. -/
theorem completionWritesOnlyItsRegisters : Obligations.CompletionWritesOnlyItsRegisters := by
  intro i s t r h hr
  calc t.readReg r
      = (s.complete i (ruleOf i)).readReg r := by rw [exec_next_eq h]
    _ = (ruleOf i s.operands (s.statusFirst (encode i))).readReg r := by cases r <;> rfl
    _ = (s.statusFirst (encode i)).readReg r := (ruleOf_frame _ i s.operands).readReg hr
    _ = s.readReg r := statusFirst_readReg s _ hr

/-- Settles O9: the report of each command's rule, begun from the status writes of R29. -/
theorem flagsByCommand : Obligations.FlagsByCommand := by
  refine ⟨fun s t h => ?_, fun s t h => ?_, fun s t h => ?_, fun s t h => ?_, fun s w => ⟨rfl, rfl, rfl, rfl⟩⟩
  · obtain rfl := exec_next_eq h
    obtain ⟨hfound, hred, hrep⟩ := invRule_report (statusFirst_fresh s (encode .inv)) s.operands
    rcases hrep with ⟨he | he, hi⟩ | ⟨he, -, hi⟩
    · exact ⟨.inl he, hfound, hred, .inl hi⟩
    · exact ⟨.inr (.inl he), hfound, hred, .inl hi⟩
    · exact ⟨.inr (.inr he), hfound, hred, .inr hi⟩
  · obtain rfl := exec_next_eq h
    obtain ⟨hfound, hrep⟩ := kpsRule_report (statusFirst_fresh s (encode .kps)) s.operands
    have small : ∀ e ∈ [(0 : BitVec 3), 1, 3, 4, 5], e.toNat ≤ 5 := by decide
    rcases hrep with ⟨he, hi⟩ | ⟨he, -, hi⟩
    · exact ⟨small _ he, hfound, .inl hi⟩
    · exact ⟨(congrArg BitVec.toNat he).le.trans (by decide), hfound, .inr hi⟩
  · obtain rfl := exec_next_eq h
    obtain ⟨he, hfound, hred, hi⟩ := decRule_report (statusFirst_fresh s (encode .dec)) s.operands
    exact ⟨he, hfound, hred, hi⟩
  · rcases h with h | h <;> obtain rfl := exec_next_eq h
    · exact searchRule_report (statusFirst_fresh s (encode .bfs)) allMinvs s.operands
    · exact searchRule_report (statusFirst_fresh s (encode .eks)) coprimeMinvs s.operands

/-- Settles O58: a consistent busy state has a command pending, and the engine has the turn. -/
theorem busyEngineCompletesWhenLeftAlone : Obligations.BusyEngineCompletesWhenLeftAlone := by
  intro s hc hb hs
  obtain ⟨p, hp⟩ := Option.isSome_iff_exists.1 (hc.idle_or_busy ▸ hb)
  obtain ⟨t, ht, hnone, hbusy, hdone, -⟩ := engineTurn_of_pending hp
  refine ⟨hc.operands_eq, t, ?_, hbusy, hdone, hnone⟩
  rw [step, State.advance, if_neg hc.err_not_reserved, hs, ht]

/-! ## INV -/

/-- Settles O13. -/
theorem chainIsTheDivisionPass : Obligations.ChainIsTheDivisionPass := by
  rintro m n ⟨-, -, hm, hmn⟩
  exact ⟨⟨_, chain_head m n hm, rfl, rfl⟩, chain_isPass m n hm (by omega)⟩

/-- R107: a coefficient of m between -n and n, made nonnegative, is the inverse of m modulo n. -/
theorem normalize_isInverse {m n : Nat} {x y : Int} (hbez : (m : Int) * x + (n : Int) * y = 1) (hn : 1 < n)
    (hlo : -(n : Int) ≤ x) (hhi : x < n) :
    IsInverse m n (normalize x n).toNat ∧ ((normalize x n).toNat : Int) = normalize x n := by
  obtain ⟨c, hc⟩ : ∃ c : Int, normalize x n = x + n * c := by
    unfold normalize
    split
    · exact ⟨1, by ring⟩
    · exact ⟨0, by ring⟩
  have hrange : 0 ≤ normalize x n ∧ normalize x n < n := by
    unfold normalize
    split <;> omega
  have hcast : ((normalize x n).toNat : Int) = normalize x n := Int.toNat_of_nonneg hrange.1
  refine ⟨⟨by omega, ?_⟩, hcast⟩
  have hprod : (m : Int) * ((normalize x n).toNat : Int) = 1 + n * (m * c - y) := by
    rw [hcast, hc]
    linear_combination hbez
  have hmod : ((m : Int) * ((normalize x n).toNat : Int)) % n = 1 := by
    rw [hprod, Int.add_mul_emod_self_left, Int.emod_eq_of_lt (by decide) (by omega)]
  exact_mod_cast hmod

/-- The raw coefficient of a pair of the domain lies between -n and n. -/
theorem fold_chain_fst_range {m n : Nat} (hm : 1 ≤ m) (hmn : m < n) :
    -(n : Int) ≤ (fold (chain m n)).1 ∧ (fold (chain m n)).1 < n := by
  rcases fold_chain_bounds m n hm hmn.le with ⟨-, hone⟩ | ⟨-, hx, -⟩
  · rw [hone]
    simp only
    omega
  · have := abs_le.1 (show |(fold (chain m n)).1| ≤ (n : Int) / 2 by omega)
    omega

/-- The completion of an INV whose operands are in the domain and coprime (R106 to R108). -/
theorem complete_inv_of_coprime {s : State} (hd : inDomain s.operands.invM.toNat s.operands.invN.toNat = true)
    (hg : chainGcd (chain s.operands.invM.toNat s.operands.invN.toNat) = 1) :
    s.complete .inv (ruleOf .inv) =
      (((s.statusFirst (encode .inv)).writeChain (chain s.operands.invM.toNat s.operands.invN.toNat)).writeBezout
        (fold (chain s.operands.invM.toNat s.operands.invN.toNat)).1
        (fold (chain s.operands.invM.toNat s.operands.invN.toNat)).2 s.operands.invN.toNat).clearPending := by
  rcases invRule_cases s.operands (s.statusFirst (encode .inv)) with ⟨hd', -⟩ | ⟨-, hg', -⟩ | ⟨-, -, h⟩
  · simp [hd] at hd'
  · exact absurd hg hg'
  · exact congrArg State.clearPending h

/-- Settles O12: Bezout's identity of the fold, read modulo n. -/
theorem invWritesTheInverse : Obligations.InvWritesTheInverse := by
  rintro s m n ⟨rfl, rfl⟩ ⟨-, hn, hm, hmn⟩ hg
  have hbez := fold_chain_bezout _ s.operands.invN.toNat hm
  rw [hg] at hbez
  obtain ⟨⟨hx1, hx2⟩, hy1, hy2⟩ := fold_chain_range hm hmn hn hg
  obtain ⟨hlo, hhi⟩ := fold_chain_fst_range hm hmn
  obtain ⟨hinv, hz⟩ := normalize_isInverse hbez (by omega) hlo hhi
  refine ⟨_, _, _, rfl, hbez, hx1, hx2, hy1, hy2, hinv, hz, ?_⟩
  have hgcd := chainGcd_chain _ s.operands.invN.toNat hm
  have hx8 := congrArg (BitVec.ofInt 8) hz
  rw [BitVec.ofInt_natCast] at hx8
  rw [exec_eq, complete_inv_of_coprime ((inDomain_iff _ _).2 ⟨by omega, hn, hm, by omega⟩) (hgcd.trans hg), hx8,
    State.writeChain, hgcd, hg]
  rfl

/-! ## Host accesses -/

/-- Settles O38. -/
theorem registerOffsets : Obligations.RegisterOffsets :=
  fun i => ⟨regAt_iff_offset i, (regAt_eq_none_iff i).trans (by omega)⟩

/-- Settles O40. -/
theorem statusWritesAndBusyWrites : Obligations.StatusWritesAndBusyWrites := by
  intro s v
  refine ⟨?_, fun i hi hb => regWrite_of_busy hi hb v⟩
  rw [regWrite_status_index, State.writeStatus, Status.hostWritten]
  cases v.getLsbD 1 <;> cases v.getLsbD 3 <;> simp

/-- Settles O42: the write stores to the one register at its index. -/
theorem readWriteRegistersKeepStoredBits : Obligations.ReadWriteRegistersKeepStoredBits := by
  intro s i r v hb hi hoff
  have hr : regAt i = some r := (regAt_iff_offset i r).2 hoff
  have hrw := regAccess_of_readWrite hi hr
  have hw : s.regWrite i v = s.storeReg r v := by
    rw [regWrite_of_idle hr (by rintro rfl; cases hrw) hb, State.writeReg, hrw]
  rw [hw]
  refine ⟨?_, fun j hj => ?_, by rw [storeReg_eq]⟩
  · rw [regRead_of_regAt hr, readReg_storeReg_self hrw]
  · cases hj' : regAt j with
    | none => rw [regRead_of_unmapped hj', regRead_of_unmapped hj']
    | some r' =>
      have hne : r ≠ r' := by
        rintro rfl
        exact hj (((regAt_eq_some_iff j r).1 hj').trans ((regAt_eq_some_iff i r).1 hr).symm)
      rw [regRead_of_regAt hj', regRead_of_regAt hj', readReg_storeReg_of_ne hne]

/-- Settles O43. -/
theorem readsChangeNothing : Obligations.ReadsChangeNothing := by
  refine ⟨fun s i => ⟨_, rfl, rfl, fun r hoff => ?_, fun j => rfl, rfl, rfl⟩, fun s r i hoff => ?_, fun s i hi => ?_⟩
  · rw [regRead_of_regAt ((regAt_iff_offset i r).2 hoff)]
    exact readReg_shows r s
  · rw [regRead_of_regAt ((regAt_iff_offset i r).2 hoff)]
    exact readReg_and_not_storedMask r s
  · exact regRead_of_unmapped ((regAt_eq_none_iff i).2 hi) s

/-- Settles O46. -/
theorem irqFollowsEnableAndDone : Obligations.IrqFollowsEnableAndDone := by
  intro s
  refine ⟨rfl, fun p t hp ht => ?_, fun w hb => ?_, fun v => ?_, fun v hb => ?_⟩
  · obtain ⟨t', ht', -, -, hdone, -, -, hie, -⟩ := engineTurn_of_pending hp
    obtain rfl := Host.Outcome.next.inj (ht.symm.trans ht')
    rw [State.irq, hdone, hie, Bool.and_true]
  · rw [regWrite_of_idle ((regAt_eq_cmd_iff 3).2 rfl) (by decide) hb]
    exact Bool.and_false _
  · rw [regWrite_status_index]
    simp only [State.irq, State.writeStatus_ctrlIE, State.writeStatus_status, Status.hostWritten_done]
    cases v.getLsbD 1 <;> simp
  · rw [regWrite_of_idle ((regAt_eq_some_iff 1 .ctrl).2 rfl) (by decide) hb]
    rfl

/-! ## Single steps -/

/-- Settles O47: the only events that write OVR are whole-word writes and resets. -/
theorem ovrChangesOnlyAsStated : Obligations.OvrChangesOnlyAsStated := by
  intro s t hstep
  obtain ⟨-, hev⟩ := step_next_event hstep
  cases hev with
  | engine hs ht =>
    obtain ⟨-, hovr, -⟩ := engineTurn_next ht
    refine ⟨fun a i v rest ha => ?_, fun h h' => ?_, fun h h' => ?_⟩
    · rcases hs with hs | ⟨rest, hs⟩ <;> simp [hs] at ha
    · simp [hovr, h] at h'
    · simp [hovr, h] at h'
  | read a rest hs ha r ht =>
    have hovr : t.status.ovr = s.status.ovr := ht ▸ rfl
    refine ⟨fun a' i v rest' hs' ha' => ?_, fun h h' => ?_, fun h h' => ?_⟩
    · obtain rfl := Event.host.inj (List.cons.inj (hs.symm.trans hs')).1
      simp [ha] at ha'
    · simp [hovr, h] at h'
    · simp [hovr, h] at h'
  | write a rest hs i v ha ht =>
    have hovr : t.status.ovr = if i = 2 then s.status.ovr && !v.getLsbD 3 else s.status.ovr || s.status.busy :=
      ht ▸ regWrite_ovr _ i v
    refine ⟨fun a' i' v' rest' hs' ha' hi hb => ?_, fun h h' => ⟨a, i, v, rest, hs, ha, ?_⟩,
      fun h h' => .inl ⟨a, v, rest, hs, ?_⟩⟩
    · obtain rfl := Event.host.inj (List.cons.inj (hs.symm.trans hs')).1
      obtain ⟨rfl, rfl⟩ := Prod.mk.inj (Option.some.inj (ha.symm.trans ha'))
      rw [hovr, if_neg hi, hb, Bool.or_true]
    · by_cases hi : i = 2
      · simp [hovr, hi, h] at h'
      · refine ⟨hi, ?_⟩
        rwa [hovr, if_neg hi, h, Bool.false_or] at h'
    · by_cases hi : i = 2
      · rw [hovr, if_pos hi, h, Bool.true_and, Bool.not_eq_false'] at h'
        exact ⟨hi ▸ ha, h'⟩
      · simp [hovr, hi, h] at h'
  | reset rest hs ht =>
    have hovr : t.status.ovr = false := ht ▸ rfl
    refine ⟨fun a i v rest' hs' => ?_, fun h h' => ?_, fun h h' => .inr (.inl ⟨rest, hs⟩)⟩
    · simp [hs] at hs'
    · simp [hovr] at h'
  | inReset a rest hs ht =>
    have hovr : t.status.ovr = false := by rcases ht with ht | ⟨r, ht⟩ <;> exact ht ▸ rfl
    refine ⟨fun a i v rest' hs' => ?_, fun h h' => ?_, fun h h' => .inr (.inr ⟨a, rest, hs⟩)⟩
    · simp [hs] at hs'
    · simp [hovr] at h'

/-- Settles O49: only an accept leaves a command pending where none was. -/
theorem onlyACmdWriteStartsACommand : Obligations.OnlyACmdWriteStartsACommand := by
  intro s t p hstep hnone hp
  obtain ⟨-, hev⟩ := step_next_event hstep
  have absent : t.pending = none → s.status.busy = false ∧ p.ops = s.ops ∧ ∃ (a : Access) (rest : List Event),
      s.schedule = .host a :: rest ∧ wholeWordWrite a = some (3, p.word) := fun h => by simp [h] at hp
  cases hev with
  | engine hs ht => exact absent (engineTurn_next ht).1
  | read a rest hs ha r ht => exact absent (ht ▸ hnone)
  | write a rest hs i v ha ht =>
    rw [ht, regWrite_pending] at hp
    split at hp
    case isTrue hi =>
      obtain rfl := Option.some.inj hp
      exact ⟨hi.2, rfl, a, rest, hs, hi.1 ▸ ha⟩
    case isFalse => simp [hnone] at hp
  | reset rest hs ht => exact absent (ht ▸ rfl)
  | inReset a rest hs ht => rcases ht with ht | ⟨r, ht⟩ <;> exact absent (ht ▸ rfl)

/-- A host write to another register keeps the key. -/
theorem regWrite_key (s : State) {i : Fin 64} (hi : i ≠ 23 ∧ i ≠ 24) (v : Word) :
    (s.regWrite i v).ops.keyMinv = s.ops.keyMinv ∧ (s.regWrite i v).ops.keyB = s.ops.keyB := by
  rcases regWrite_cases i v s with ⟨-, h⟩ | ⟨-, -, h⟩ | ⟨-, -, h⟩ | ⟨r, hr, -, -, h⟩ <;> rw [h]
  · exact ⟨rfl, rfl⟩
  · exact ⟨rfl, rfl⟩
  · exact ⟨rfl, rfl⟩
  · have hindex := (regAt_eq_some_iff i r).1 hr
    have hmi : r ≠ .keyMinv := by rintro rfl; exact hi.1 hindex
    have hb : r ≠ .keyB := by rintro rfl; exact hi.2 hindex
    rcases writeReg_cases r v s with ⟨-, h⟩ | ⟨-, h⟩ | ⟨-, -, h⟩ | ⟨-, h⟩ | ⟨-, h⟩ <;> rw [h]
    · exact ⟨rfl, rfl⟩
    · exact ⟨rfl, rfl⟩
    · exact ⟨(store_keyMinv r v s.ops).trans (if_neg hmi), (store_keyB r v s.ops).trans (if_neg hb)⟩
    · exact ⟨rfl, rfl⟩
    · exact ⟨rfl, rfl⟩

/-- Settles O50. -/
theorem onlyKeyCommandsChangeTheKey : Obligations.OnlyKeyCommandsChangeTheKey := by
  intro s t hstep hkey
  obtain ⟨-, hev⟩ := step_next_event hstep
  cases hev with
  | engine hs ht =>
    obtain ⟨-, -, hops | ⟨p, i, hp, hd, hi⟩⟩ := engineTurn_next ht
    · simp [hops] at hkey
    · exact .inl ⟨p, i, hp, hd, hi, hs⟩
  | read a rest hs ha r ht => simp [ht] at hkey
  | write a rest hs i v ha ht =>
    refine .inr (.inl ⟨a, i, v, rest, hs, ha, ?_⟩)
    by_contra hi
    obtain ⟨hmi, hb⟩ := regWrite_key { s with schedule := s.schedule.tail } (not_or.1 hi) v
    simp [ht, hmi, hb] at hkey
  | reset rest hs ht => exact .inr (.inr (.inl ⟨rest, hs⟩))
  | inReset a rest hs ht => exact .inr (.inr (.inr ⟨a, rest, hs⟩))

end Sys2Proof.Machine
end

section
/-! PROOFS. The statements about the host's accesses: what a write does at each index (R62 to R65, R69), the byte lanes
(R67, R68), and the reads between an accept and its completion (R72, R217). -/

namespace Sys2Proof.Machine

/-! ## The engine's turn by the pending word (R81, R172, R176) -/

section
variable {s : State} {p : Pending}

theorem engineTurn_of_idle (hp : s.pending = none) : s.engineTurn = .next s := by
  simp [State.engineTurn, hp]

theorem engineTurn_of_ok {i : Instr} (hp : s.pending = some p) (hd : decode p.word = .ok i) :
    s.engineTurn = .next (s.complete i (ruleOf i)) := by
  simp [State.engineTurn, hp, hd, exec_eq]

theorem engineTurn_of_error {e : DecodeReject} (hp : s.pending = some p) (hd : decode p.word = .error e) :
    s.engineTurn = .next (s.completeIllegal p.word) := by
  simp [State.engineTurn, hp, hd]

end

/-! ## Writes to CMD, to read-only registers and to unmapped indices (R63, R65) -/

/-- A word that decodes is the word of its command: RSV and OP are all of it (R80). -/
theorem eq_encode_of_decode {w : Word} {i : Instr} (h : decode w = .ok i) : w = encode i := by
  have hop : w.extractLsb 3 0 = i.opcode := opField_of_decode h
  have hrsv : w.extractLsb 31 4 = 0 := by
    unfold decode at h
    split at h
    · assumption
    · cases h
  rw [encode, ← hop, ← hrsv]
  exact (BitVec.extractLsb'_append_extractLsb' (w := 28) (len := 4) (x := w)).symm

theorem regWrite_cmd_of_idle {s : State} (hb : s.status.busy = false) (w : Word) : s.regWrite 3 w = s.accept w :=
  regWrite_of_idle ((regAt_eq_cmd_iff 3).2 rfl) (by decide) hb w

/-- A word that encodes no command is rejected by the decoder (R81). -/
theorem decode_error_of_not_encode {w : Word} (hw : ∀ i, w ≠ encode i) : ∃ e, decode w = .error e := by
  cases hd : decode w with
  | ok i => exact absurd (eq_encode_of_decode hd) (hw i)
  | error e => exact ⟨e, rfl⟩

/-- Settles O39. -/
theorem cmdWriteIsAnAccept : Obligations.CmdWriteIsAnAccept := by
  intro s w hb
  rw [regWrite_cmd_of_idle hb]
  refine ⟨rfl, fun hw => ?_⟩
  obtain ⟨e, he⟩ := decode_error_of_not_encode hw
  exact ⟨_, engineTurn_of_error (s.accept_pending w) he, rfl, rfl⟩

/-- R65's indices hold a register with access code ro, or none (R22). -/
theorem regAccess_of_readOnly {i : Fin 64} {r : RegId} (hi : i.val ∈ readOnlyIndices ∨ 32 ≤ i.val)
    (hr : regAt i = some r) : regAccess r = .ro := by
  have table : ∀ i : Fin 64, i.val ∈ readOnlyIndices ∨ 32 ≤ i.val → ∀ r ∈ regAt i, regAccess r = .ro := by
    decide
  exact table i hi r (by simp [hr])

theorem regWrite_unmapped_of_idle {s : State} {i : Fin 64} (hr : regAt i = none) (hb : s.status.busy = false)
    (v : Word) : s.regWrite i v = s := by
  rw [State.regWrite, hr, if_neg (by decide), if_neg (by simp [hb])]

/-- Settles O41. -/
theorem readOnlyWritesDoNothing : Obligations.ReadOnlyWritesDoNothing := by
  intro s i v hb hi
  cases hr : regAt i with
  | none => exact regWrite_unmapped_of_idle hr hb v
  | some r =>
    have hro := regAccess_of_readOnly hi hr
    rw [regWrite_of_idle hr (by rintro rfl; cases hro) hb, State.writeReg, hro]

/-! ## Writing twice (R69) -/

theorem writeStatus_writeStatus (s : State) (v : Word) : (s.writeStatus v).writeStatus v = s.writeStatus v := by
  simp only [State.writeStatus, Status.hostWritten]
  cases v.getLsbD 1 <;> cases v.getLsbD 3 <;> rfl

theorem store_store (r : RegId) (v : Word) (o : OperandRegs) : (o.store r v).store r v = o.store r v := by
  cases r <;> rfl

/-- A write to a register other than CMD leaves BUSY as it is. -/
theorem writeReg_busy {r : RegId} (hc : r ≠ .cmd) (v : Word) (s : State) :
    (s.writeReg r v).status.busy = s.status.busy := by
  rcases writeReg_cases r v s with ⟨-, h⟩ | ⟨-, h⟩ | ⟨-, -, h⟩ | ⟨-, h⟩ | ⟨rfl, -⟩
  · rw [h]
  · rw [h]
  · rw [h]
  · rw [h, State.writeStatus_status, Status.hostWritten_busy]
  · exact absurd rfl hc

theorem eq_cmd_of_regAccess {r : RegId} (h : regAccess r = .cmd) : r = .cmd := by
  cases r with
  | cmd => rfl
  | _ => cases h

theorem writeReg_writeReg {r : RegId} (hc : r ≠ .cmd) (v : Word) (s : State) :
    (s.writeReg r v).writeReg r v = s.writeReg r v := by
  unfold State.writeReg
  cases hr : regAccess r with
  | ro => rfl
  | rw =>
    simp only [storeReg_eq, store_store]
    split <;> rfl
  | w1c => exact writeStatus_writeStatus s v
  | cmd => exact absurd (eq_cmd_of_regAccess hr) hc

/-- Settles O44: the second write meets the case of the first, but for a write to CMD, which makes the machine busy. -/
theorem writesAreIdempotent : Obligations.WritesAreIdempotent := by
  intro s i v
  refine ⟨fun hi => ?_, ?_⟩
  · rcases regWrite_cases i v s with ⟨hr, h⟩ | ⟨hr, hb, h⟩ | ⟨-, -, h⟩ | ⟨r, hr, hs, hb, h⟩
    · obtain rfl := (regAt_eq_status_iff i).1 hr
      rw [h, regWrite_status_index, writeStatus_writeStatus]
    · rw [h, regWrite_of_busy (s := s.ignoreBusy) (mt (regAt_eq_status_iff i).2 hr) hb]
      rfl
    · rw [h, h]
    · have hc : r ≠ .cmd := by
        rintro rfl
        exact hi ((regAt_eq_cmd_iff i).1 hr)
      rw [h, regWrite_of_idle hr hs ((writeReg_busy hc v s).trans hb), writeReg_writeReg hc]
  · rintro rfl hb
    rw [regWrite_cmd_of_idle hb, regWrite_of_busy (by decide) rfl]
    rfl

/-! ## Byte lanes (R67, R68) -/

theorem laneByte_eq_extractLsb' (w : Word) (j : Fin 4) : laneByte w j = w.extractLsb' (8 * j.val) 8 := by
  apply BitVec.eq_of_toNat_eq
  simp [laneByte]

/-- The selected lanes are those of the lane select, each with its byte of the word (R67). -/
theorem mem_selectLanes (lanes : BitVec 4) (w : Word) (j : Fin 4) (b : Byte) :
    (j, b) ∈ selectLanes lanes w ↔ lanes.getLsbD j.val = true ∧ b = laneByte w j := by
  simp only [selectLanes, List.mem_map, List.mem_filter, List.mem_finRange, true_and, Prod.mk.injEq]
  constructor
  · rintro ⟨k, hk, rfl, rfl⟩
    exact ⟨hk, rfl⟩
  · rintro ⟨hj, rfl⟩
    exact ⟨j, hj, rfl, rfl⟩

theorem laneReply_of_all {lanes : BitVec 4} (h : lanes = 0xF) (w : Word) : laneReply lanes w = .word w := if_pos h

theorem laneReply_of_some {lanes : BitVec 4} (h : lanes ≠ 0xF) (w : Word) :
    laneReply lanes w = .lanes (selectLanes lanes w) := if_neg h

/-- Settles O45. -/
theorem byteLaneAccesses : Obligations.ByteLaneAccesses := by
  refine ⟨fun s addr lanes b3 b2 b1 b0 => ⟨fun hl => if_neg hl, fun hl => if_pos hl⟩, fun s addr lanes =>
    ⟨fun hl => ?_, fun hl => ⟨selectLanes lanes (s.regRead (indexOfAddr addr)), ?_, fun j b => ?_⟩⟩⟩
  · rw [State.access, laneReply_of_all hl]
    rfl
  · rw [State.access, laneReply_of_some hl]
    rfl
  · rw [mem_selectLanes, laneByte_eq_extractLsb']
    rfl

/-! ## What the environment holds does not reach the engine (log entries 1 and 4) -/

/-- The same machine with other events still to come and other replies given. -/
def State.withEnvironment (q : List Event) (rs : List Reply) (s : State) : State :=
  { s with schedule := q, replies := rs }

section
variable (q : List Event) (rs : List Reply) (s : State)

theorem invRule_withEnvironment (o : OperandRegs) :
    invRule o (s.withEnvironment q rs) = (invRule o s).withEnvironment q rs := by
  unfold invRule
  dsimp only
  split
  · split <;> rfl
  · rfl

theorem finalInverse_withEnvironment (m b : Nat) :
    (s.withEnvironment q rs).finalInverse m b = (s.finalInverse m b).withEnvironment q rs := by
  unfold State.finalInverse
  split
  · rfl
  · split <;> rfl

theorem solveRule_withEnvironment (t : Samples) :
    solveRule t (s.withEnvironment q rs) = (solveRule t s).withEnvironment q rs := by
  unfold solveRule
  dsimp only
  split
  · rfl
  · exact finalInverse_withEnvironment q rs ((s.writeDiffs _ _ _).writeSolution _ _ _) _ _

theorem kpsRule_withEnvironment (o : OperandRegs) :
    kpsRule o (s.withEnvironment q rs) = (kpsRule o s).withEnvironment q rs := by
  unfold kpsRule
  split
  · rfl
  · split
    · rfl
    · exact solveRule_withEnvironment q rs s _

theorem searchRule_withEnvironment (mis : List Nat) (o : OperandRegs) :
    searchRule mis o (s.withEnvironment q rs) = (searchRule mis o s).withEnvironment q rs := by
  unfold searchRule State.writeSearch
  split <;> rfl

theorem ruleOf_withEnvironment (i : Instr) (o : OperandRegs) :
    ruleOf i o (s.withEnvironment q rs) = (ruleOf i o s).withEnvironment q rs := by
  cases i with
  | inv => exact invRule_withEnvironment q rs s o
  | kps => exact kpsRule_withEnvironment q rs s o
  | dec => rfl
  | bfs => exact searchRule_withEnvironment q rs s allMinvs o
  | eks => exact searchRule_withEnvironment q rs s coprimeMinvs o

/-- A completion is the same whatever is still to come and whatever was read before it. -/
theorem complete_withEnvironment (i : Instr) :
    (s.withEnvironment q rs).complete i (ruleOf i) = (s.complete i (ruleOf i)).withEnvironment q rs :=
  congrArg State.clearPending (ruleOf_withEnvironment q rs (s.statusFirst (encode i)) i s.operands)

end

/-- The engine's turn commutes with a change of the environment's lists. -/
theorem engineTurn_withEnvironment {s t : State} (h : s.engineTurn = .next t) (q : List Event) (rs : List Reply) :
    (s.withEnvironment q rs).engineTurn = .next (t.withEnvironment q rs) := by
  rcases engineTurn_cases s with ⟨hp, h'⟩ | ⟨p, i, hp, hd, h'⟩ | ⟨p, e, hp, hd, h'⟩ <;> rw [h'] at h
  · obtain rfl := Host.Outcome.next.inj h
    exact engineTurn_of_idle hp
  · obtain rfl := exec_next_eq h
    rw [engineTurn_of_ok (s := s.withEnvironment q rs) hp hd, complete_withEnvironment]
  · obtain rfl := Host.Outcome.next.inj h
    exact engineTurn_of_error (s := s.withEnvironment q rs) hp hd

/-! ## Runs over reads (R66, R72) -/

/-- A step takes the first event of the schedule (R180). -/
theorem step_of_schedule {s : State} {e : Event} {rest : List Event} (herr : s.status.err ≠ 7)
    (hs : s.schedule = e :: rest) : step s = (s.withEnvironment rest s.replies).event e := by
  rw [step, State.advance, if_neg herr, hs]
  rfl

theorem run_succ_of_step {M : Host.Core} {s t : M.State} (h : M.step s = .next t) (k : Nat) :
    M.run (k + 1) s = M.run k t := by
  rw [Host.Core.run, h]

/-- A run over reads takes them from the schedule, adds their words to the replies, and changes nothing else: each
gives the word from before the run (R66). -/
theorem run_reads (reads : List (Fin 64)) (rest : List Event) (k : Nat) {s : State} (herr : s.status.err ≠ 7)
    (hs : s.schedule = (reads.map fun i => Event.host (.read i)) ++ rest) :
    Sys2Proof.core.run (reads.length + k) s = Sys2Proof.core.run k
      (s.withEnvironment rest ((reads.map fun i => Reply.word (s.regRead i)).reverse ++ s.replies)) := by
  induction reads generalizing s with
  | nil =>
    have hsame : s.withEnvironment rest s.replies = s := congrArg (s.withEnvironment · s.replies) hs.symm
    rw [List.length_nil, Nat.zero_add]
    exact congrArg (Sys2Proof.core.run k) hsame.symm
  | cons i reads ih =>
    have hread : step s = .next (s.withEnvironment ((reads.map fun i => Event.host (.read i)) ++ rest)
        (.word (s.regRead i) :: s.replies)) := step_of_schedule herr hs
    rw [List.length_cons, Nat.add_right_comm, List.map_cons, List.reverse_cons, List.append_assoc]
    exact (run_succ_of_step (M := Sys2Proof.core) hread _).trans (ih (s := s.withEnvironment _ _) herr rfl)

/-- Settles O57: the run over the reads, then the completion, which the environment's lists do not reach. -/
theorem latencyDoesNotChangeResults : Obligations.LatencyDoesNotChangeResults := by
  intro s t p reads herr _ hs ht
  have hlast (rs : List Reply) : step (s.withEnvironment [.engine] rs) = .next (t.withEnvironment [] rs) :=
    (step_of_schedule (s := s.withEnvironment [.engine] rs) herr rfl).trans (engineTurn_withEnvironment ht [] rs)
  exact (run_reads reads [.engine] 1 herr hs).trans (run_succ_of_step (M := Sys2Proof.core) (hlast _) 0)

end Sys2Proof.Machine
end

section
/-! PROOFS. The statements about the encoding: decoding inverts encoding (R80 to R82), the legal words (R81) and the
illegal ones (R84), and the command an engine's turn runs (R176). -/

namespace Sys2Proof.Machine

/-! ## The fields of a word and what it decodes to (R80 to R82) -/

/-- The decoder as a condition on the two fields of the word. -/
theorem decode_eq_ok_iff {w : Word} {i : Instr} : decode w = .ok i ↔ rsvField w = 0 ∧ opField w = i.opcode := by
  unfold decode
  split
  case isTrue hrsv => exact (instrOfOp_eq_ok_iff _ _).trans (and_iff_right hrsv).symm
  case isFalse hrsv => exact ⟨nofun, fun ⟨h, _⟩ => absurd h hrsv⟩

theorem rsvField_encode (i : Instr) : rsvField (encode i) = 0 := by cases i <;> rfl

theorem decode_encode (i : Instr) : decode (encode i) = .ok i :=
  decode_eq_ok_iff.2 ⟨rsvField_encode i, opField_encode i⟩

theorem wellFormed_eq_true (i : Instr) : i.wellFormed = true := by cases i <;> rfl

/-- Settles O1: the two fields of a word that decodes are those of its command's encoding, and they are all of it. -/
theorem decodeInvertsEncode : Obligations.DecodeInvertsEncode := by
  intro w i
  constructor
  · rintro ⟨-, hd⟩
    exact eq_encode_of_decode hd
  · rintro rfl
    exact ⟨wellFormed_eq_true i, decode_encode i⟩

/-! ## The legal and the illegal words (R81, R84) -/

/-- The assigned opcodes are 1 to 5 (R82). -/
theorem exists_opcode_iff (op : BitVec 4) : (∃ i : Instr, op = i.opcode) ↔ 1 ≤ op.toNat ∧ op.toNat ≤ 5 := by
  constructor
  · rintro ⟨i, rfl⟩
    cases i <;> decide
  · intro hop
    cases hd : instrOfOp op with
    | ok i => exact ⟨i, (instrOfOp_eq_ok_iff op i).1 hd⟩
    | error e => exact absurd hop (instrOfOp_error hd)

/-- Settles O2: a word decodes when its RSV is 0 and its OP is some command's. -/
theorem legalWordsAreFive : Obligations.LegalWordsAreFive := by
  intro w
  calc (∃ i, decode w = .ok i)
    _ ↔ ∃ i : Instr, rsvField w = 0 ∧ opField w = i.opcode := exists_congr fun _ => decode_eq_ok_iff
    _ ↔ rsvField w = 0 ∧ ∃ i : Instr, opField w = i.opcode := exists_and_left
    _ ↔ rsvField w = 0 ∧ 1 ≤ (opField w).toNat ∧ (opField w).toNat ≤ 5 := and_congr_right' (exists_opcode_iff _)

/-- A word with RSV not 0 is rejected for it, whatever its OP (R84). -/
theorem decode_of_rsvField_ne_zero {w : Word} (h : rsvField w ≠ 0) : decode w = .error .reservedBits := if_neg h

/-- With RSV = 0 the OP alone decides (R81). -/
theorem decode_of_rsvField_eq_zero {w : Word} (h : rsvField w = 0) : decode w = instrOfOp (opField w) := if_pos h

/-- Settles O3: the five legal words are the encodings of the commands; of the others, two are decided by their OP and
one by its RSV. -/
theorem writtenOutWordsDecode : Obligations.WrittenOutWordsDecode :=
  ⟨decode_encode .inv, decode_encode .kps, decode_encode .dec, decode_encode .bfs, decode_encode .eks,
    decode_of_rsvField_eq_zero (by decide), decode_of_rsvField_eq_zero (by decide),
    decode_of_rsvField_ne_zero (by decide)⟩

/-! ## The command of an engine's turn (R176) -/

/-- With nothing scheduled the engine takes its turn (R180). -/
theorem step_of_schedule_nil {s : State} (herr : s.status.err ≠ 7) (hs : s.schedule = []) :
    step s = s.engineTurn := by
  rw [step, State.advance, if_neg herr, hs]

theorem engineTurn_eq_exec {s : State} {p : Pending} {i : Instr} (hp : s.pending = some p)
    (hd : decode p.word = .ok i) : s.engineTurn = exec i s :=
  (engineTurn_of_ok hp hd).trans (exec_eq i s).symm

/-- Settles O5: in both cases the step is the engine's turn, and an event taken from the schedule leaves the pending
command as it is. -/
theorem stepRunsTheDecodedCommand : Obligations.StepRunsTheDecodedCommand := by
  intro s p i herr hp hd
  constructor
  · intro hs
    exact (step_of_schedule_nil herr hs).trans (engineTurn_eq_exec hp hd)
  · intro rest hs
    have hp' : (s.withEnvironment rest s.replies).pending = some p := hp
    exact (step_of_schedule herr hs).trans (engineTurn_eq_exec hp' hd)

end Sys2Proof.Machine
end

section
/-! PROOFS. The statements about INV: its domain check and its errors (R100, R105), the chain buffer and its bounds
(R102, R103), the gcd, the fold and InvCore (R104, R106, R107, R110). -/

namespace Sys2Proof.Machine

/-! ## The suffixes of a chain -/

/-- The chain from step j on is the chain of that step's own divisor and dividend, which have the same gcd. -/
theorem drop_chain (m n : Nat) (hm : 1 ≤ m) : ∀ (j : Nat) (st : ModuloStep), (chain m n)[j]? = some st →
    1 ≤ st.p ∧ (chain m n).drop j = chain st.p st.q ∧ Nat.gcd st.p st.q = Nat.gcd m n := by
  induction m, n, hm using chain_induction with
  | last p q hp h hc =>
    intro j st hj
    obtain ⟨rfl, rfl⟩ : j = 0 ∧ divisionStep p q = st := by simpa [hc, List.getElem?_singleton] using hj
    exact ⟨hp, rfl, rfl⟩
  | more p q hp hr hc ih =>
    intro j st hj
    cases j with
    | zero =>
      obtain rfl : divisionStep p q = st := by simpa [hc] using hj
      exact ⟨hp, rfl, rfl⟩
    | succ j =>
      rw [hc, List.getElem?_cons_succ] at hj
      obtain ⟨hp', hdrop, hgcd⟩ := ih j st hj
      exact ⟨hp', by rw [hc, List.drop_succ_cons, hdrop], by rw [hgcd, ← Nat.gcd_rec]⟩

/-- Settles O17: a suffix of the chain is a chain, so its fold meets Bezout's identity. -/
theorem bezoutAtEveryFoldStep : Obligations.BezoutAtEveryFoldStep := by
  rintro m n ⟨-, -, hm, -⟩ j st hj
  obtain ⟨hp, hdrop, hgcd⟩ := drop_chain m n hm j st hj
  obtain ⟨hlt, hst⟩ := List.getElem?_eq_some_iff.1 hj
  have hcons : (chain m n).drop j = st :: (chain m n).drop (j + 1) := by rw [List.drop_eq_getElem_cons hlt, hst]
  refine ⟨fun hlast => ?_, fun hmore a b hfold => ?_, ?_⟩
  · rw [hcons, hlast, List.drop_length, fold_last]
  · have hne : (chain m n).drop (j + 1) ≠ [] := by simpa using hmore
    rw [hcons, fold_cons st hne, hfold]
  · rw [hdrop, ← hgcd, ← fold_chain_bezout st.p st.q hp]
    ring

/-! ## The last step and the gcd (R104) -/

/-- The divisor of the last step is the gcd. -/
theorem last_step_p (m n : Nat) (hm : 1 ≤ m) {st : ModuloStep}
    (hst : (chain m n)[(chain m n).length - 1]? = some st) : st.p = Nat.gcd m n := by
  rw [← chainGcd_chain m n hm, chainGcd, List.getLast?_eq_getElem?, hst]

/-- The remainder of the step before the last is the gcd. -/
theorem next_to_last_step_r {m n : Nat} (hm : 1 ≤ m) (hmn : m ≤ n) (hlen : 2 ≤ (chain m n).length) {st : ModuloStep}
    (hst : (chain m n)[(chain m n).length - 2]? = some st) : st.r = Nat.gcd m n := by
  have hidx : (chain m n).length - 2 + 1 = (chain m n).length - 1 := by omega
  have hlast := List.getElem?_eq_getElem (show (chain m n).length - 1 < (chain m n).length by omega)
  obtain ⟨-, -, -, -, -, hnext⟩ := chain_isPass m n hm hmn _ st hst
  rw [← last_step_p m n hm hlast]
  exact (hnext _ (by rw [hidx, hlast])).1.symm

/-! ## How long a chain can be (R103) -/

/-- Lamé's bound is sharp at the Fibonacci pair alone: any other pair with a chain of L steps has a dividend larger by
fib L at least. The second case is a first quotient of 2 or more, the third a larger quotient after it. -/
theorem chain_fib_gap (m n : Nat) (hm : 1 ≤ m) : m < n →
    (m = Nat.fib ((chain m n).length + 1) ∧ n = Nat.fib ((chain m n).length + 2)) ∨
    Nat.fib ((chain m n).length + 2) + Nat.fib ((chain m n).length + 1) ≤ n ∨
    (Nat.fib ((chain m n).length + 1) + Nat.fib ((chain m n).length - 1) ≤ m ∧
      Nat.fib ((chain m n).length + 2) + Nat.fib (chain m n).length ≤ n) := by
  induction m, n, hm using chain_induction with
  | last p q hp h hc =>
    intro hpq
    have hq := Nat.le_of_dvd (by omega) (Nat.dvd_sub (Nat.dvd_of_mod_eq_zero h) (dvd_refl p))
    rw [hc]
    simp only [List.length_singleton, Nat.reduceAdd, show Nat.fib 2 = 1 from rfl, show Nat.fib 3 = 2 from rfl]
    omega
  | more p q hp hr hc ih =>
    intro hpq
    have hlt := Nat.mod_lt q hp
    have hgap := ih hlt
    obtain ⟨hfr, hfp⟩ := chain_fib_le (q % p) p hr hlt
    have hlen := List.length_pos_iff.2 (chain_ne_nil (q % p) p hr)
    have hquot : q = p + q % p ∨ 2 * p + q % p ≤ q := by
      have hdiv := Nat.div_add_mod q p
      rcases (show q / p = 1 ∨ 2 ≤ q / p by have := Nat.div_pos hpq.le hp; omega) with hone | htwo
      · rw [hone] at hdiv
        omega
      · have := Nat.mul_le_mul_left p htwo
        omega
    rw [hc, List.length_cons]
    generalize (chain (q % p) p).length = len at *
    obtain ⟨L, rfl⟩ : ∃ L, len = L + 1 := ⟨len - 1, by omega⟩
    have h2 : Nat.fib (L + 2) = Nat.fib L + Nat.fib (L + 1) := Nat.fib_add_two
    have h3 : Nat.fib (L + 3) = Nat.fib (L + 1) + Nat.fib (L + 2) := Nat.fib_add_two
    have h4 : Nat.fib (L + 4) = Nat.fib (L + 2) + Nat.fib (L + 3) := Nat.fib_add_two
    simp only [Nat.add_assoc, Nat.reduceAdd, Nat.reduceSubDiff] at *
    rcases hgap with ⟨hfibr, hfibp⟩ | hbig | ⟨hbigr, hbigp⟩
    · rcases hquot with hone | htwo
      · exact .inl ⟨hfibp, by omega⟩
      · exact .inr (.inl (by omega))
    · exact .inr (.inr ⟨by omega, by omega⟩)
    · exact .inr (.inr ⟨hbigp, by omega⟩)

/-- R103: the one pair of the domain whose chain fills the buffer. -/
theorem chain_length_eq_eleven_iff {m n : Nat} (hm : 1 ≤ m) (hmn : m < n) (hn : n ≤ 256) :
    (chain m n).length = 11 ↔ m = 144 ∧ n = 233 := by
  constructor
  · intro hlen
    have hgap := chain_fib_gap m n hm hmn
    rw [hlen] at hgap
    simp only [Nat.reduceAdd, Nat.reduceSub, show Nat.fib 10 = 55 from rfl, show Nat.fib 11 = 89 from rfl,
      show Nat.fib 12 = 144 from rfl, show Nat.fib 13 = 233 from rfl] at hgap
    omega
  · rintro ⟨rfl, rfl⟩
    decide

/-- R103 for the modulus 256 of KPS, by its 255 chains. -/
theorem chain_length_256 : ∀ m < 256, 1 ≤ m →
    (chain m 256).length ≤ 9 ∧ ((chain m 256).length = 9 ↔ m ∈ [158, 159, 161, 162]) := by
  decide +kernel

/-- Settles O15: Lamé's bound with its one sharp pair, the chains modulo 256, and the ranges of a pass's fields. -/
theorem chainBounds : Obligations.ChainBounds := by
  refine ⟨?_, by decide⟩
  rintro m n ⟨-, hn, hm, hmn⟩
  have pass := chain_isPass m n hm (by omega)
  refine ⟨List.length_pos_iff.2 (chain_ne_nil m n hm), chain_length_le m n hm hmn hn,
    chain_length_eq_eleven_iff hm hmn hn, ?_, ?_, ?_⟩
  · rintro rfl
    exact chain_length_256 m hmn hm
  · intro st hst
    obtain ⟨j, hj⟩ := List.mem_iff_getElem?.1 hst
    obtain ⟨hp, -, hk, hr, -, -⟩ := pass j st hj
    obtain ⟨hpm, hqn⟩ := chain_le m n hm (by omega) st hst
    have := Nat.div_le_self st.q st.p
    have := Nat.mod_lt st.q hp
    omega
  · intro j st st' hj hj'
    obtain ⟨hp, -, -, hr, -, hnext⟩ := pass j st hj
    obtain ⟨hp', -⟩ := pass (j + 1) st' hj'
    exact ⟨hp', by rw [(hnext st' hj').1, hr]; exact Nat.mod_lt _ hp⟩

/-! ## The completion of INV (R100, R102, R105) -/

@[simp] theorem reported_err (op : BitVec 4) (err : BitVec 3) (info : Word) (found red : Bool) (s : State) :
    (s.reported op err info found red).status.err = err := rfl

theorem inDomain_iff_invDomain (m n : Nat) : inDomain m n = true ↔ InvDomain m n := by
  rw [inDomain_iff]
  unfold InvDomain
  omega

section
variable {s : State} {m n : Nat} (ho : InvOperands s.operands m n)
include ho

/-- The completion outside the domain (R100). -/
theorem exec_inv_of_not_domain (hd : ¬ InvDomain m n) : exec .inv s = .next (s.reported 1 1 0 false false) := by
  obtain ⟨rfl, rfl⟩ := ho
  rw [← inDomain_iff_invDomain] at hd
  rcases invRule_cases s.operands (s.statusFirst (encode .inv)) with ⟨-, h⟩ | ⟨hd', -⟩ | ⟨hd', -⟩
  · exact (exec_eq .inv s).trans (congrArg (fun t => Host.Outcome.next t.clearPending) h)
  · exact absurd hd' hd
  · exact absurd hd' hd

/-- The completion of operands of the domain that are not coprime (R105). -/
theorem exec_inv_of_not_coprime (hd : InvDomain m n) (hg : Nat.gcd m n ≠ 1) :
    exec .inv s = .next { s.reported 1 2 (BitVec.ofNat 32 (Nat.gcd m n)) false false with
      inv := { s.inv with
        gcd := BitVec.ofNat 9 (Nat.gcd m n), len := BitVec.ofNat 4 (chain m n).length }
      chain := bufferOf (chain m n) } := by
  obtain ⟨rfl, rfl⟩ := ho
  have ⟨_, _, hm, _⟩ := hd
  have hgcd := chainGcd_chain _ s.operands.invN.toNat hm
  rw [← inDomain_iff_invDomain] at hd
  rcases invRule_cases s.operands (s.statusFirst (encode .inv)) with ⟨hd', -⟩ | ⟨-, -, h⟩ | ⟨-, hg', -⟩
  · simp [hd] at hd'
  · rw [State.writeChain, hgcd] at h
    exact (exec_eq .inv s).trans (congrArg (fun t => Host.Outcome.next t.clearPending) h)
  · exact absurd (hgcd.symm.trans hg') hg

/-- What INV writes over the whole domain, coprime or not: no InvalidDomain, the gcd, and the chain (R102, R104). -/
theorem exec_inv_of_domain (hd : InvDomain m n) :
    ∃ t, exec .inv s = .next t ∧ t.status.err ≠ 1 ∧ t.inv.gcd = BitVec.ofNat 9 (Nat.gcd m n) ∧
      t.inv.len = BitVec.ofNat 4 (chain m n).length ∧ t.chain = bufferOf (chain m n) := by
  by_cases hg : Nat.gcd m n = 1
  · obtain ⟨x, y, z, -, -, -, -, -, -, -, -, he⟩ := invWritesTheInverse s m n ho hd hg
    exact ⟨_, he, by simp, congrArg (BitVec.ofNat 9) hg.symm, rfl, rfl⟩
  · exact ⟨_, exec_inv_of_not_coprime ho hd hg, by simp, rfl, rfl, rfl⟩

end

/-- Settles O10. -/
theorem invChecksItsDomain : Obligations.InvChecksItsDomain := by
  intro s m n ho
  refine ⟨exec_inv_of_not_domain ho, fun hd => ?_⟩
  obtain ⟨t, ht, herr, -⟩ := exec_inv_of_domain ho hd
  exact ⟨t, ht, herr⟩

/-- Below 256 twice the gcd with 256 does not divide: it would divide 256 as well, and then the gcd. -/
theorem not_two_mul_gcd_256_dvd {m : Nat} (hm : 1 ≤ m) (hm' : m ≤ 255) : ¬ 2 * Nat.gcd m 256 ∣ m := by
  intro hdvd
  have hpos := Nat.gcd_pos_of_pos_left 256 hm
  obtain ⟨j, hj, hpow⟩ := (Nat.dvd_prime_pow (m := 8) Nat.prime_two).1 (Nat.gcd_dvd_right m 256)
  have hne : j ≠ 8 := by
    rintro rfl
    have := Nat.le_of_dvd hm (Nat.gcd_dvd_left m 256)
    omega
  have hdvd' : 2 * Nat.gcd m 256 ∣ 256 := by
    rw [hpow, ← pow_succ']
    exact Nat.pow_dvd_pow 2 (n := 8) (by omega)
  have := Nat.le_of_dvd hpos (Nat.dvd_gcd hdvd hdvd')
  omega

theorem gcd_256_eq_one_iff (m : Nat) : Nat.gcd m 256 = 1 ↔ m % 2 = 1 := by
  rw [← Nat.odd_iff, ← Nat.coprime_two_right]
  exact Nat.coprime_pow_right_iff (n := 8) (by decide) m 2

/-- Settles O11. -/
theorem invReportsNotCoprime : Obligations.InvReportsNotCoprime := by
  refine ⟨fun s m n ho hd hg => exec_inv_of_not_coprime ho hd hg, fun m hm hm' => ⟨?_, ?_, ?_, ?_⟩⟩
  · rw [Ne, gcd_256_eq_one_iff]
    omega
  · obtain ⟨j, -, hj⟩ := (Nat.dvd_prime_pow (m := 8) Nat.prime_two).1 (Nat.gcd_dvd_right m 256)
    exact ⟨j, hj⟩
  · exact Nat.gcd_dvd_left m 256
  · exact not_two_mul_gcd_256_dvd hm hm'

/-- Settles O14. -/
theorem chainBufferHoldsTheChain : Obligations.ChainBufferHoldsTheChain := by
  intro s m n ho hd
  obtain ⟨t, ht, -, -, hlen, hchain⟩ := exec_inv_of_domain ho hd
  obtain ⟨-, hn, hm, hmn⟩ := hd
  have hle := chain_length_le m n hm hmn hn
  refine ⟨t, ht, ?_, fun i => ⟨fun st hst => ?_, fun hi => ?_⟩⟩
  · rw [hlen, BitVec.toNat_ofNat]
    omega
  · obtain ⟨hi, -⟩ := List.getElem?_eq_some_iff.1 hst
    obtain ⟨st', hst', he, hfields⟩ := bufferOf_chain_entry hm hmn hn hi
    obtain rfl := Option.some.inj (hst.symm.trans hst')
    rw [hchain, he]
    exact hfields
  · rw [hchain, bufferOf_getElem, entryAt, List.getElem?_eq_none hi]
    rfl

/-- Settles O16. -/
theorem invGcdIsTheLastDivisor : Obligations.InvGcdIsTheLastDivisor := by
  refine ⟨fun s m n ho hd => ?_, by decide⟩
  obtain ⟨t, ht, -, hgcd, -, -⟩ := exec_inv_of_domain ho hd
  obtain ⟨-, hn, hm, hmn⟩ := hd
  have hle := two_mul_gcd_le hm hmn
  refine ⟨t, ht, ?_, fun st => last_step_p m n hm, fun st hlen => next_to_last_step_r hm (Nat.le_of_lt hmn) hlen,
    fun hone => ?_⟩
  · rw [hgcd, BitVec.toNat_ofNat]
    omega
  · exact last_step_p (st := divisionStep m n) m n hm (by rw [hone, chain_head m n hm])

/-! ## InvCore (R107, R110) -/

/-- Modulo n there is at most one inverse in [0, n). -/
theorem IsInverse.unique {m n x y : Nat} (hx : IsInverse m n x) (hy : IsInverse m n y) : y = x := by
  obtain ⟨hxn, hx1⟩ := hx
  obtain ⟨hyn, hy1⟩ := hy
  have hmod : m * y ≡ m * x [MOD n] := hy1.trans hx1.symm
  have hcop : Nat.gcd n m = 1 := by
    have hdvd := (Nat.dvd_mod_iff (Nat.gcd_dvd_left n m)).2 ((Nat.gcd_dvd_right n m).mul_right x)
    rw [hx1] at hdvd
    exact Nat.dvd_one.1 hdvd
  exact (hmod.cancel_left_of_coprime hcop).eq_of_lt_of_lt hyn hxn

/-- InvCore of coprime operands is their inverse, by Bezout's identity of the fold. -/
theorem invCore_of_coprime {m n : Nat} (hd : InvDomain m n) (hg : Nat.gcd m n = 1) :
    ∃ x, invCore m n = .ok x ∧ IsInverse m n x := by
  obtain ⟨-, -, hm, hmn⟩ := hd
  have hbez := fold_chain_bezout m n hm
  rw [hg] at hbez
  obtain ⟨hlo, hhi⟩ := fold_chain_fst_range hm hmn
  refine ⟨_, ?_, (normalize_isInverse hbez (by omega) hlo hhi).1⟩
  simp [invCore, chainGcd_chain m n hm, hg]

theorem invCore_of_not_coprime {m n : Nat} (hd : InvDomain m n) (hg : Nat.gcd m n ≠ 1) :
    invCore m n = .notCoprime (Nat.gcd m n) := by
  obtain ⟨-, -, hm, -⟩ := hd
  simp [invCore, chainGcd_chain m n hm, hg]

/-- What InvCore returns on an inverse's operand is that inverse. -/
theorem invCore_of_isInverse {m n x : Nat} (hd : InvDomain m n) (hg : Nat.gcd m n = 1) (hx : IsInverse m n x) :
    invCore m n = .ok x := by
  obtain ⟨y, hy, hinv⟩ := invCore_of_coprime hd hg
  rw [hy, hx.unique hinv]

/-- Settles O18: the inverse x of an odd byte m is odd, and m is an inverse of x, so the only one. -/
theorem invCoreIsTheInverse : Obligations.InvCoreIsTheInverse := by
  refine ⟨fun m n hd => ⟨fun hg => ?_, invCore_of_not_coprime hd⟩, fun m x hm hodd hcore => ?_⟩
  · obtain ⟨x, hx, hinv⟩ := invCore_of_coprime hd hg
    exact ⟨x, hx, hinv, fun y => hinv.unique⟩
  · have hd : InvDomain m 256 := ⟨by decide, le_rfl, by omega, by omega⟩
    obtain ⟨y, hy, hlt, hprod⟩ := invCore_of_coprime hd ((gcd_256_eq_one_iff m).2 hodd)
    obtain rfl := InvResult.ok.inj (hcore.symm.trans hy)
    have hxodd : x % 2 = 1 := by
      have : Odd (m * x) := Nat.odd_iff.2 (by omega)
      exact Nat.odd_iff.1 (Nat.odd_mul.1 this).2
    exact invCore_of_isInverse ⟨by decide, le_rfl, by omega, by omega⟩ ((gcd_256_eq_one_iff x).2 hxodd)
      ⟨by omega, by rwa [Nat.mul_comm]⟩

/-- Settles O19: each of INV's three completions writes numbers of m and n only. -/
theorem invDependsOnItsOperands : Obligations.InvDependsOnItsOperands := by
  intro s s' t t' hM hN ht ht'
  have ho : InvOperands s.operands s.operands.invM.toNat s.operands.invN.toNat := ⟨rfl, rfl⟩
  have ho' : InvOperands s'.operands s.operands.invM.toNat s.operands.invN.toNat :=
    ⟨congrArg BitVec.toNat hM.symm, congrArg BitVec.toNat hN.symm⟩
  generalize s.operands.invM.toNat = m, s.operands.invN.toNat = n at ho ho'
  by_cases hd : InvDomain m n
  · by_cases hg : Nat.gcd m n = 1
    · obtain ⟨x, y, z, hfold, -, -, -, -, -, -, hz, he⟩ := invWritesTheInverse s m n ho hd hg
      obtain ⟨x', y', z', hfold', -, -, -, -, -, -, hz', he'⟩ := invWritesTheInverse s' m n ho' hd hg
      obtain ⟨rfl, rfl⟩ := Prod.mk.inj (hfold.symm.trans hfold')
      obtain rfl : z = z' := Int.ofNat.inj (hz.trans hz'.symm)
      obtain rfl := Host.Outcome.next.inj (ht.symm.trans he)
      obtain rfl := Host.Outcome.next.inj (ht'.symm.trans he')
      exact ⟨rfl, rfl, fun _ => ⟨rfl, rfl, rfl⟩, fun _ => rfl⟩
    · obtain rfl := Host.Outcome.next.inj (ht.symm.trans (exec_inv_of_not_coprime ho hd hg))
      obtain rfl := Host.Outcome.next.inj (ht'.symm.trans (exec_inv_of_not_coprime ho' hd hg))
      exact ⟨rfl, rfl, fun _ => ⟨rfl, rfl, rfl⟩, fun h => absurd h (by simp)⟩
  · obtain rfl := Host.Outcome.next.inj (ht.symm.trans (exec_inv_of_not_domain ho hd))
    obtain rfl := Host.Outcome.next.inj (ht'.symm.trans (exec_inv_of_not_domain ho' hd))
    exact ⟨rfl, rfl, fun h => absurd rfl h, fun h => absurd h (by simp)⟩

end Sys2Proof.Machine
end

section
/-! PROOFS. The known-plaintext solver: the congruence it solves, its outcomes, and what they say about the samples
(R120 to R133). -/

namespace Sys2Proof.Machine

/-! ## Differences of bytes (R124, R128) -/

theorem byteDiff_lt (a b : Nat) : byteDiff a b < 256 := Nat.mod_lt _ (by decide)

theorem modFloor_sub_eq_byteDiff {a b : Nat} (hb : b ≤ 256) : modFloor ((a : Int) - (b : Int)) 256 = byteDiff a b := by
  unfold modFloor byteDiff
  omega

theorem modFloor_sub_of_le {a b : Nat} (hba : b ≤ a) (ha : a < 256) : modFloor ((a : Int) - (b : Int)) 256 = a - b := by
  unfold modFloor
  omega

/-- Only the low byte of the subtrahend counts, as in c₁ − p₁·m. -/
theorem modFloor_sub_eq_byteDiff_mod (a x : Nat) : modFloor ((a : Int) - (x : Int)) 256 = byteDiff a (x % 256) := by
  unfold modFloor byteDiff
  omega

theorem byteDiff_eq_zero_iff {a b : Nat} (ha : a < 256) (hb : b < 256) : byteDiff a b = 0 ↔ a = b := by
  unfold byteDiff
  omega

/-! ## The pairs (R122, R123) -/

section
variable {o : OperandRegs} {p1 c1 p2 c2 : Nat} (hp : KpsPairs o p1 c1 p2 c2)
include hp

theorem KpsPairs.bounds : p2 ≤ p1 ∧ p1 < 256 ∧ c1 < 256 ∧ c2 < 256 := by
  rcases hp with ⟨hle, rfl, rfl, rfl, rfl⟩ | ⟨hlt, rfl, rfl, rfl, rfl⟩
  · exact ⟨hle, o.kpsP1.isLt, o.kpsC1.isLt, o.kpsC2.isLt⟩
  · exact ⟨hlt.le, o.kpsP2.isLt, o.kpsC2.isLt, o.kpsC1.isLt⟩

/-- The ordering of R123 puts the operands' pairs in the order the claims speak of. -/
theorem KpsPairs.order_eq : (samplesOf o).order = { p1 := p1, c1 := c1, p2 := p2, c2 := c2 } := by
  rcases hp with ⟨hle, rfl, rfl, rfl, rfl⟩ | ⟨hlt, rfl, rfl, rfl, rfl⟩
  · exact if_neg (Nat.not_lt.2 hle)
  · exact if_pos hlt

end

theorem exists_kpsPairs (o : OperandRegs) : ∃ p1 c1 p2 c2, KpsPairs o p1 c1 p2 c2 := by
  rcases Nat.lt_or_ge o.kpsP1.toNat o.kpsP2.toNat with h | h
  · exact ⟨_, _, _, _, .inr ⟨h, rfl, rfl, rfl, rfl⟩⟩
  · exact ⟨_, _, _, _, .inl ⟨h, rfl, rfl, rfl, rfl⟩⟩

/-- Pairs with different plaintext bytes are ordered the same whichever comes first. -/
theorem KpsPairs.swap {o o' : OperandRegs} {p1 c1 p2 c2 : Nat} (hp : KpsPairs o p1 c1 p2 c2) (hlt : p2 < p1)
    (h1 : o'.kpsP1 = o.kpsP2) (h2 : o'.kpsC1 = o.kpsC2) (h3 : o'.kpsP2 = o.kpsP1) (h4 : o'.kpsC2 = o.kpsC1) :
    KpsPairs o' p1 c1 p2 c2 := by
  unfold KpsPairs
  rw [h1, h2, h3, h4]
  rcases hp with ⟨-, hP1, hC1, hP2, hC2⟩ | ⟨-, hP1, hC1, hP2, hC2⟩
  · exact .inr ⟨hlt, hP2, hC2, hP1, hC1⟩
  · exact .inl ⟨hlt.le, hP2, hC2, hP1, hC1⟩

/-! ## The multipliers that fit two samples -/

/-- The multiplier m and the offset b encrypt both of the operands' samples. -/
def FitsSamples (o : OperandRegs) (m b : Nat) : Prop :=
  (m * o.kpsP1.toNat + b) % 256 = o.kpsC1.toNat ∧ (m * o.kpsP2.toNat + b) % 256 = o.kpsC2.toNat

/-- The differences eliminate the offset (R124), and R128 gives it back from the first pair. -/
theorem fitsSamples_iff {o : OperandRegs} {p1 c1 p2 c2 : Nat} (hp : KpsPairs o p1 c1 p2 c2) {m b : Nat} (hb : b < 256) :
    FitsSamples o m b ↔ m * (p1 - p2) % 256 = byteDiff c1 c2 ∧ b = byteDiff c1 (p1 * m % 256) := by
  obtain ⟨hle, -, hc1, hc2⟩ := hp.bounds
  have hordered : FitsSamples o m b ↔ (m * p1 + b) % 256 = c1 ∧ (m * p2 + b) % 256 = c2 := by
    rcases hp with ⟨-, rfl, rfl, rfl, rfl⟩ | ⟨-, rfl, rfl, rfl, rfl⟩
    · exact Iff.rfl
    · exact and_comm
  obtain ⟨d, rfl⟩ := Nat.exists_eq_add_of_le hle
  rw [hordered, Nat.add_sub_cancel_left, Nat.mul_comm _ m, Nat.mul_add]
  generalize m * p2 = x, m * d = y
  unfold byteDiff
  omega

/-! ## The congruence m·Δp ≡ Δc (R125 to R127) -/

/-- A factor d determines a multiplier modulo 256/gcd(d, 256), and no further. -/
theorem mul_modEq_256_iff (a b d : Nat) : a * d ≡ b * d [MOD 256] ↔ a ≡ b [MOD 256 / Nat.gcd d 256] := by
  constructor
  · intro h
    rw [Nat.gcd_comm]
    exact h.cancel_right_div_gcd (by decide)
  · intro h
    obtain ⟨k, hk⟩ := Nat.gcd_dvd_left d 256
    have hscaled := h.mul_right' (Nat.gcd d 256)
    rw [Nat.div_mul_cancel (Nat.gcd_dvd_right d 256)] at hscaled
    have := hscaled.mul_right k
    rwa [Nat.mul_assoc, Nat.mul_assoc, ← hk] at this

/-- Solutions of one congruence have the same residue modulo 256/g. -/
theorem modEq_of_solutions {m m' d e : Nat} (h : m * d % 256 = e) (h' : m' * d % 256 = e) :
    m' ≡ m [MOD 256 / Nat.gcd d 256] := (mul_modEq_256_iff m' m d).1 (h'.trans h.symm)

/-- For a byte difference that is not 0, 256/g is even. -/
theorem two_dvd_256_div_gcd {d : Nat} (hd : 1 ≤ d) (hd' : d < 256) : 2 ∣ 256 / Nat.gcd d 256 := by
  have hdvd : 256 / Nat.gcd d 256 ∣ 256 := Nat.div_dvd_of_dvd (Nat.gcd_dvd_right d 256)
  obtain ⟨i, -, hi⟩ := (Nat.dvd_prime_pow (m := 8) Nat.prime_two).1 hdvd
  have hne : i ≠ 0 := by
    rintro rfl
    have := Nat.div_mul_cancel (Nat.gcd_dvd_right d 256)
    have := two_mul_gcd_le hd hd'
    rw [hi] at *
    omega
  rw [hi]
  exact dvd_pow_self 2 hne

theorem div_gcd_256_pos (d : Nat) : 0 < 256 / Nat.gcd d 256 := Nat.div_gcd_pos_of_pos_right d (by decide)

/-- InvCore on the reduced difference returns its inverse (R126, R127): dividing by g leaves a coprime pair. -/
theorem invCore_div_gcd {d : Nat} (hd : 1 ≤ d) (hd' : d < 256) :
    ∃ x, invCore (d / Nat.gcd d 256) (256 / Nat.gcd d 256) = .ok x ∧
      d / Nat.gcd d 256 * x ≡ 1 [MOD 256 / Nat.gcd d 256] := by
  have hpos : 0 < Nat.gcd d 256 := Nat.gcd_pos_of_pos_left 256 hd
  have hge : 0 < d / Nat.gcd d 256 := Nat.div_gcd_pos_of_pos_left 256 hd
  have hlt : d / Nat.gcd d 256 < 256 / Nat.gcd d 256 := Nat.div_lt_div_of_lt_of_dvd (Nat.gcd_dvd_right d 256) hd'
  have hdom : InvDomain (d / Nat.gcd d 256) (256 / Nat.gcd d 256) :=
    ⟨div_gcd_256_pos d, Nat.div_le_self _ _, hge, hlt⟩
  obtain ⟨x, hx, -, hprod⟩ := invCore_of_coprime hdom (Nat.coprime_div_gcd_div_gcd hpos)
  exact ⟨x, hx, hprod.trans (Nat.mod_eq_of_lt (lt_of_le_of_lt hge hlt)).symm⟩

/-- Both branches in one formula: the coprime branch is the reduction by g = 1. -/
theorem branch_of_dvd {dp dc : Nat} (hdp : dp ≠ 0) (hdc : dc % Nat.gcd dp 256 = 0) :
    branch dp dc (Nat.gcd dp 256) = .solved
      (dc / Nat.gcd dp 256 * (invCore (dp / Nat.gcd dp 256) (256 / Nat.gcd dp 256)).value % (256 / Nat.gcd dp 256))
      (decide (Nat.gcd dp 256 ≠ 1)) := by
  unfold branch Config.nMod
  by_cases hg : Nat.gcd dp 256 = 1
  · simp [hg]
  · simp [hg, hdc, hdp]

/-- The branches solve the congruence, with an m below 256/g: m·(dp/g) ≡ dc/g modulo 256/g, scaled by g. -/
theorem branch_solves {dp dc : Nat} (hdp : 1 ≤ dp) (hdp' : dp < 256) (hdc' : dc < 256)
    (hdc : dc % Nat.gcd dp 256 = 0) :
    ∃ m, branch dp dc (Nat.gcd dp 256) = .solved m (decide (Nat.gcd dp 256 ≠ 1)) ∧
      m < 256 / Nat.gcd dp 256 ∧ m * dp % 256 = dc := by
  obtain ⟨x, hx, hinv⟩ := invCore_div_gcd hdp hdp'
  have hb := branch_of_dvd (by omega) hdc
  rw [hx] at hb
  refine ⟨_, hb, Nat.mod_lt _ (div_gcd_256_pos dp), ?_⟩
  have hg : dp / Nat.gcd dp 256 * Nat.gcd dp 256 = dp := Nat.div_mul_cancel (Nat.gcd_dvd_left dp 256)
  have he : dc / Nat.gcd dp 256 * Nat.gcd dp 256 = dc := Nat.div_mul_cancel (Nat.dvd_of_mod_eq_zero hdc)
  have hn : 256 / Nat.gcd dp 256 * Nat.gcd dp 256 = 256 := Nat.div_mul_cancel (Nat.gcd_dvd_right dp 256)
  generalize dp / Nat.gcd dp 256 = d, dc / Nat.gcd dp 256 = e, 256 / Nat.gcd dp 256 = n at *
  have hreduced : e * x % n * d ≡ e [MOD n] := calc
    e * x % n * d ≡ e * x * d [MOD n] := (Nat.mod_modEq _ n).mul_right d
    _ = e * (d * x) := by ring
    _ ≡ e * 1 [MOD n] := hinv.mul_left e
    _ = e := Nat.mul_one e
  have hscaled := hreduced.mul_right' (Nat.gcd dp 256)
  rw [hn, he, Nat.mul_assoc, hg] at hscaled
  exact Eq.trans hscaled (Nat.mod_eq_of_lt hdc')

/-! ## The completion of KPS (R131) -/

theorem exec_kps_of_rule {s u : State} (h : kpsRule s.operands (s.statusFirst (encode .kps)) = u) :
    exec .kps s = .next u.clearPending := by
  rw [← h]
  exact exec_eq .kps s

/-- Settles O20. -/
theorem kpsChecksTheLengths : Obligations.KpsChecksTheLengths := by
  intro s
  rcases kpsRule_cases s.operands (s.statusFirst (encode .kps)) with ⟨hne, h⟩ | ⟨heq, -, h⟩ | ⟨heq, hge, -⟩
  · exact ⟨fun _ => exec_kps_of_rule h, fun heq => absurd heq hne⟩
  · exact ⟨fun hne => absurd heq hne, fun _ _ => exec_kps_of_rule h⟩
  · exact ⟨fun hne => absurd heq hne, fun _ hlt => absurd hge (Nat.not_le.2 hlt)⟩

theorem solveRule_of_raised {t : Samples} {e : ErrKind} (hb : branch t.dp t.dc (Nat.gcd t.dp 256) = .raised e)
    (s : State) : solveRule t s = (s.writeDiffs t.dp t.dc (Nat.gcd t.dp 256)).finish e 0 := by
  rcases solveRule_cases t s with ⟨e', hb', h⟩ | ⟨m, red, hb', -⟩
  · obtain rfl := BranchResult.raised.inj (hb.symm.trans hb')
    exact h
  · cases hb.symm.trans hb'

theorem solveRule_of_solved {t : Samples} {m : Nat} {red : Bool}
    (hb : branch t.dp t.dc (Nat.gcd t.dp 256) = .solved m red) (s : State) :
    solveRule t s = ((s.writeDiffs t.dp t.dc (Nat.gcd t.dp 256)).writeSolution m (t.offset m) red).finalInverse
      m (t.offset m) := by
  rcases solveRule_cases t s with ⟨e, hb', -⟩ | ⟨m', red', hb', h⟩
  · cases hb.symm.trans hb'
  · obtain ⟨rfl, rfl⟩ := BranchResult.solved.inj (hb.symm.trans hb')
    exact h

/-- The differences and the offset of the ordered pairs, as the claims write them (R124, R128). -/
theorem KpsPairs.samples_eq {o : OperandRegs} {p1 c1 p2 c2 : Nat} (hp : KpsPairs o p1 c1 p2 c2) :
    (samplesOf o).order.dp = p1 - p2 ∧ (samplesOf o).order.dc = byteDiff c1 c2 ∧
      ∀ m, (samplesOf o).order.offset m = byteDiff c1 (p1 * m % 256) := by
  obtain ⟨hle, hlt, -, hc2⟩ := hp.bounds
  rw [hp.order_eq]
  exact ⟨modFloor_sub_of_le hle hlt, modFloor_sub_eq_byteDiff hc2.le,
    fun m => modFloor_sub_eq_byteDiff_mod c1 (p1 * m)⟩

section
variable {s : State} (hl : KpsLengthsOk s.operands)
include hl

/-- Past the length checks a completion of KPS is the solver on the ordered pairs. -/
theorem exec_kps_of_lengthsOk :
    exec .kps s = .next (solveRule (samplesOf s.operands).order (s.statusFirst (encode .kps))).clearPending := by
  obtain ⟨heq, hge⟩ := hl
  rcases kpsRule_cases s.operands (s.statusFirst (encode .kps)) with ⟨hne, -⟩ | ⟨-, hlt, -⟩ | ⟨-, -, h⟩
  · exact absurd heq hne
  · exact absurd hge (Nat.not_le.2 hlt)
  · exact exec_kps_of_rule h

variable {p1 c1 p2 c2 : Nat} (hp : KpsPairs s.operands p1 c1 p2 c2)
include hp

/-- The completion where the branch raises an error. -/
theorem exec_kps_of_raised {e : ErrKind}
    (hb : branch (p1 - p2) (byteDiff c1 c2) (Nat.gcd (p1 - p2) 256) = .raised e) :
    exec .kps s = .next { s.reported 2 e.code 0 false false with
      kps := { s.kps with
        dp := BitVec.ofNat 8 (p1 - p2), dc := BitVec.ofNat 8 (byteDiff c1 c2)
        g := BitVec.ofNat 9 (Nat.gcd (p1 - p2) 256) } } := by
  obtain ⟨hdp, hdc, -⟩ := hp.samples_eq
  rw [← hdp, ← hdc] at hb ⊢
  rw [exec_kps_of_lengthsOk hl, solveRule_of_raised hb]
  rfl

/-- The completion where the branch gives an m: its solution is written, then the final inverse runs. -/
theorem exec_kps_of_solved {m : Nat} {red : Bool}
    (hb : branch (p1 - p2) (byteDiff c1 c2) (Nat.gcd (p1 - p2) 256) = .solved m red) :
    exec .kps s = .next ((((s.statusFirst (encode .kps)).writeDiffs (p1 - p2) (byteDiff c1 c2)
      (Nat.gcd (p1 - p2) 256)).writeSolution m (byteDiff c1 (p1 * m % 256)) red).finalInverse m
        (byteDiff c1 (p1 * m % 256))).clearPending := by
  obtain ⟨hdp, hdc, hoff⟩ := hp.samples_eq
  rw [← hdp, ← hdc] at hb ⊢
  rw [← hoff m, exec_kps_of_lengthsOk hl, solveRule_of_solved hb]

end

theorem branch_of_not_dvd {dp dc g : Nat} (h : dc % g ≠ 0) : branch dp dc g = .raised .noSolution := by
  have hg : g ≠ 1 := by
    rintro rfl
    exact h (Nat.mod_one dc)
  rw [branch, if_neg hg, if_pos h]

/-- Settles O21: two equal pairs have both differences 0. -/
theorem kpsReportsUnsolvable : Obligations.KpsReportsUnsolvable := by
  refine ⟨fun s p1 c1 p2 c2 hl hp h => exec_kps_of_raised hl hp (branch_of_not_dvd h), fun s hl hpp hcc => ?_⟩
  have hp : KpsPairs s.operands s.operands.kpsP1.toNat s.operands.kpsC1.toNat s.operands.kpsP1.toNat
      s.operands.kpsC1.toNat := .inl ⟨le_rfl, rfl, rfl, by rw [hpp], by rw [hcc]⟩
  have hdc : byteDiff s.operands.kpsC1.toNat s.operands.kpsC1.toNat = 0 :=
    (byteDiff_eq_zero_iff (BitVec.isLt _) (BitVec.isLt _)).2 rfl
  have h := exec_kps_of_raised (e := .invalidDomain) hl hp (by rw [Nat.sub_self, hdc]; rfl)
  rw [Nat.sub_self, hdc] at h
  exact h

/-- Settles O22: the branch's m, then the final inverse's three cases. -/
theorem kpsSolvesTheCongruence : Obligations.KpsSolvesTheCongruence := by
  intro s p1 c1 p2 c2 hl hp hlt hdvd
  obtain ⟨-, hp1, -, -⟩ := hp.bounds
  obtain ⟨m, hb, hm, hsol⟩ := branch_solves (by omega) (by omega) (byteDiff_lt c1 c2) hdvd
  refine ⟨m, hm, hsol, fun m' hm' hsol' => (modEq_of_solutions hsol hsol').eq_of_lt_of_lt hm' hm, ?_⟩
  have he := exec_kps_of_solved hl hp hb
  generalize byteDiff c1 (p1 * m % 256) = b at he ⊢
  rcases finalInverse_cases m b (((s.statusFirst (encode .kps)).writeDiffs (p1 - p2) (byteDiff c1 c2)
      (Nat.gcd (p1 - p2) 256)).writeSolution m b (decide (Nat.gcd (p1 - p2) 256 ≠ 1)))
    with ⟨h0, h⟩ | ⟨h0, hg, h⟩ | ⟨h0, hg, h⟩ <;> rw [h] at he
  · exact ⟨fun _ => he, fun hne => absurd h0 hne, fun hone => absurd hone (by simp [h0])⟩
  · exact ⟨fun hz => absurd hz h0, fun _ _ => he, fun hone => absurd hone hg⟩
  · have hm256 : m < 256 := hm.trans_le (Nat.div_le_self _ _)
    obtain ⟨x, hx, hinv⟩ := invCore_of_coprime ⟨by decide, le_rfl, Nat.pos_of_ne_zero h0, hm256⟩ hg
    rw [hx] at he
    exact ⟨fun hz => absurd hz h0, fun _ hne => absurd hg hne, fun _ => ⟨x, hinv, he⟩⟩

end Sys2Proof.Machine
end

section
/-! PROOFS. What the outcomes of KPS say about its samples and its key (R133). -/

namespace Sys2Proof.Machine

/-! ## The outcomes of KPS, as facts of the next state -/

/-- What a completion of KPS from s leaves in t when m solves the congruence of the ordered pairs: the solution in the
KPS registers, and an odd m as the key or an even m as an error of the final inverse (R125 to R130). -/
structure KpsSolution (s t : State) (p1 c1 p2 c2 m : Nat) : Prop where
  m_lt : m < 256
  solves : m * (p1 - p2) % 256 = byteDiff c1 c2
  g_reg : t.kps.g.toNat = Nat.gcd (p1 - p2) 256
  m_reg : t.kps.m.toNat = m
  b_reg : t.kps.b.toNat = byteDiff c1 (p1 * m % 256)
  red : t.status.red = decide (Nat.gcd (p1 - p2) 256 ≠ 1)
  outcome :
    (t.status.err = 0 ∧ m % 2 = 1 ∧ t.ops.keyB = t.kps.b ∧ IsInverse m 256 t.ops.keyMinv.toNat) ∨
    ((t.status.err = 1 ∨ t.status.err = 2) ∧ m % 2 = 0 ∧ t.ops = s.ops)

theorem exec_kps_solution {s : State} {p1 c1 p2 c2 : Nat} (hl : KpsLengthsOk s.operands)
    (hp : KpsPairs s.operands p1 c1 p2 c2) (hlt : p2 < p1) (hdvd : byteDiff c1 c2 % Nat.gcd (p1 - p2) 256 = 0) :
    ∃ t m, exec .kps s = .next t ∧ KpsSolution s t p1 c1 p2 c2 m := by
  obtain ⟨m, hm, hsol, -, hzero, heven, hodd⟩ := kpsSolvesTheCongruence s p1 c1 p2 c2 hl hp hlt hdvd
  have hm256 : m < 256 := hm.trans_le (Nat.div_le_self _ _)
  have hm8 : (BitVec.ofNat 8 m).toNat = m := Nat.mod_eq_of_lt hm256
  have hb8 : (BitVec.ofNat 8 (byteDiff c1 (p1 * m % 256))).toNat = byteDiff c1 (p1 * m % 256) :=
    Nat.mod_eq_of_lt (byteDiff_lt _ _)
  have hg9 : (BitVec.ofNat 9 (Nat.gcd (p1 - p2) 256)).toNat = Nat.gcd (p1 - p2) 256 :=
    Nat.mod_eq_of_lt (Nat.lt_succ_of_le ((Nat.gcd_le_right _ (by decide)).trans (by decide)))
  by_cases h0 : m = 0
  · exact ⟨_, m, hzero h0, hm256, hsol, hg9, hm8, hb8, rfl, .inr ⟨.inl rfl, by rw [h0], rfl⟩⟩
  · by_cases hg : Nat.gcd m 256 = 1
    · obtain ⟨x, ⟨hx, hprod⟩, he⟩ := hodd hg
      have hx8 : (BitVec.ofNat 8 x).toNat = x := Nat.mod_eq_of_lt hx
      exact ⟨_, m, he, hm256, hsol, hg9, hm8, hb8, rfl,
        .inl ⟨rfl, (gcd_256_eq_one_iff m).1 hg, rfl, BitVec.isLt _, hx8.symm ▸ hprod⟩⟩
    · have hm2 : m % 2 = 0 := Nat.mod_two_ne_one.1 ((gcd_256_eq_one_iff m).not.1 hg)
      exact ⟨_, m, heven h0 hg, hm256, hsol, hg9, hm8, hb8, rfl, .inr ⟨.inr rfl, hm2, rfl⟩⟩

/-- Lengths that fail a check are reported with an error, whatever else the state holds (R120, R121). -/
theorem exec_kps_of_not_lengthsOk {o : OperandRegs} (hl : ¬ KpsLengthsOk o) :
    ∃ e, e ≠ 0 ∧ ∀ s : State, s.operands.kpsPlen = o.kpsPlen → s.operands.kpsClen = o.kpsClen →
      exec .kps s = .next (s.reported 2 e 0 false false) := by
  by_cases heq : o.kpsPlen = o.kpsClen
  · have hshort : o.kpsPlen.toNat < 2 := Nat.lt_of_not_le fun hge => hl ⟨heq, hge⟩
    refine ⟨4, by decide, fun s hP hC => (kpsChecksTheLengths s).2 ?_ ?_⟩
    · rw [hP, hC, heq]
    · rwa [hP]
  · refine ⟨3, by decide, fun s hP hC => (kpsChecksTheLengths s).1 ?_⟩
    rwa [hP, hC]

/-- Where the congruence has no solution, or the plaintext bytes are equal, a branch raises an error (R127). -/
theorem branch_raises {dp dc : Nat} (hdc : dc < 256) (h : ¬ (1 ≤ dp ∧ dc % Nat.gcd dp 256 = 0)) :
    ∃ e, branch dp dc (Nat.gcd dp 256) = .raised e ∧ e.code ≠ 0 := by
  by_cases hdvd : dc % Nat.gcd dp 256 = 0
  · obtain rfl : dp = 0 := by omega
    obtain rfl : dc = 0 := by
      rw [Nat.gcd_zero_left] at hdvd
      omega
    exact ⟨.invalidDomain, rfl, by decide⟩
  · exact ⟨.noSolution, branch_of_not_dvd hdvd, by decide⟩

/-- KPS inversion: an error before any solution, with the key as it was, or a solution of the congruence. -/
theorem exec_kps_next_cases {s t : State} (h : exec .kps s = .next t) :
    (t.status.err ≠ 0 ∧ t.status.red = false ∧ t.ops = s.ops) ∨
    ∃ p1 c1 p2 c2 m, KpsPairs s.operands p1 c1 p2 c2 ∧ KpsSolution s t p1 c1 p2 c2 m := by
  by_cases hl : KpsLengthsOk s.operands
  · obtain ⟨p1, c1, p2, c2, hp⟩ := exists_kpsPairs s.operands
    by_cases hsolv : 1 ≤ p1 - p2 ∧ byteDiff c1 c2 % Nat.gcd (p1 - p2) 256 = 0
    · obtain ⟨hdp, hdvd⟩ := hsolv
      obtain ⟨t', m, ht', hs⟩ := exec_kps_solution hl hp (by omega) hdvd
      obtain rfl := Host.Outcome.next.inj (h.symm.trans ht')
      exact .inr ⟨p1, c1, p2, c2, m, hp, hs⟩
    · obtain ⟨e, hb, he⟩ := branch_raises (byteDiff_lt c1 c2) hsolv
      obtain rfl := Host.Outcome.next.inj (h.symm.trans (exec_kps_of_raised hl hp hb))
      exact .inl ⟨he, rfl, rfl⟩
  · obtain ⟨e, he, hrep⟩ := exec_kps_of_not_lengthsOk hl
    obtain rfl := Host.Outcome.next.inj (h.symm.trans (hrep s rfl rfl))
    exact .inl ⟨he, rfl, rfl⟩

/-! ## The key and the samples (R129, R133) -/

/-- Settles O28. -/
theorem kpsFailureKeepsTheKey : Obligations.KpsFailureKeepsTheKey := by
  intro s t h herr
  rcases exec_kps_next_cases h with ⟨-, -, hops⟩ | ⟨p1, c1, p2, c2, m, -, hs⟩
  · exact hops
  · rcases hs.outcome with ⟨hzero, -⟩ | ⟨-, -, hops⟩
    · exact absurd hzero herr
    · exact hops

/-- Settles O24. -/
theorem kpsSuccessFitsTheSamples : Obligations.KpsSuccessFitsTheSamples := by
  intro s t h herr
  rcases exec_kps_next_cases h with ⟨hne, -⟩ | ⟨p1, c1, p2, c2, m, hp, hs⟩
  · exact absurd herr hne
  · rcases hs.outcome with ⟨-, -, hkey, -, hinv⟩ | ⟨hfail, -⟩
    · obtain ⟨hfit1, hfit2⟩ := (fitsSamples_iff hp (BitVec.isLt _)).2 ⟨hs.solves, hs.b_reg⟩
      rw [hs.m_reg, hkey]
      exact ⟨hfit1, hfit2, hinv, rfl⟩
    · rw [herr] at hfail
      exact absurd hfail (by decide)

/-- Settles O25: the congruence determines m only modulo 256/g, and R128 gives each multiplier its own offset. -/
theorem kpsReductionIsUnderdetermined : Obligations.KpsReductionIsUnderdetermined := by
  intro s t h hred m' _ hmod
  rcases exec_kps_next_cases h with ⟨-, hnored, -⟩ | ⟨p1, c1, p2, c2, m, hp, hs⟩
  · exact absurd (hred.symm.trans hnored) (by decide)
  · rw [hs.g_reg, hs.m_reg] at hmod
    have hsol : m' * (p1 - p2) % 256 = byteDiff c1 c2 := ((mul_modEq_256_iff m' m (p1 - p2)).2 hmod).trans hs.solves
    have hlt := byteDiff_lt c1 (p1 * m' % 256)
    exact ⟨_, Nat.le_of_lt_succ hlt, (fitsSamples_iff hp hlt).2 ⟨hsol, rfl⟩⟩

/-- Settles O26: 256/g is even, so every solution has the parity of KPS_M. -/
theorem kpsFinalFailureMeansEvenKeys : Obligations.KpsFinalFailureMeansEvenKeys := by
  intro s p1 c1 p2 c2 hl hp hlt hdvd
  obtain ⟨t, m, ht, hs⟩ := exec_kps_solution hl hp hlt hdvd
  obtain ⟨-, hp1, -, -⟩ := hp.bounds
  have hparity : ∀ m', m' * (p1 - p2) % 256 = byteDiff c1 c2 → m' % 2 = m % 2 := fun m' hm' =>
    (modEq_of_solutions hs.solves hm').of_dvd (two_dvd_256_div_gcd (by omega) (by omega))
  refine ⟨t, ht, ?_⟩
  rcases hs.outcome with ⟨herr, hodd, -⟩ | ⟨hfail, heven, -⟩
  · have hnot : ¬ (t.status.err = 1 ∨ t.status.err = 2) := by rw [herr]; decide
    refine iff_of_false hnot fun hall => ?_
    have := hall m (Nat.le_of_lt_succ hs.m_lt) hs.solves
    omega
  · exact iff_of_true hfail fun m' _ hm' => (hparity m' hm').trans heven

/-- Settles O23: with g = 1 the true multiplier is the only solution. -/
theorem kpsRecoversAnOddKey : Obligations.KpsRecoversAnOddKey := by
  intro s m b hm hodd hb hl hpar hc1 hc2
  obtain ⟨p1, c1, p2, c2, hp⟩ := exists_kpsPairs s.operands
  have hdiff : p2 < p1 ∧ (p1 - p2) % 2 = 1 := by
    rcases hp with ⟨hle, hP1, -, hP2, -⟩ | ⟨hlt, hP1, -, hP2, -⟩ <;> rw [hP1, hP2] at hpar <;> omega
  have hg := (gcd_256_eq_one_iff (p1 - p2)).2 hdiff.2
  obtain ⟨t, m', ht, hs⟩ := exec_kps_solution hl hp hdiff.1 (by rw [hg, Nat.mod_one])
  obtain ⟨hsol, hoff⟩ := (fitsSamples_iff hp (Nat.lt_succ_of_le hb)).1 ⟨hc1.symm, hc2.symm⟩
  have hmod : m' ≡ m [MOD 256 / Nat.gcd (p1 - p2) 256] := modEq_of_solutions hsol hs.solves
  rw [hg] at hmod
  obtain rfl : m' = m := hmod.eq_of_lt_of_lt hs.m_lt (Nat.lt_succ_of_le hm)
  rcases hs.outcome with ⟨herr, -, hkey, hinv⟩ | ⟨-, heven, -⟩
  · have hcore := invCore_of_isInverse ⟨by decide, le_rfl, by omega, by omega⟩ ((gcd_256_eq_one_iff m').2 hodd) hinv
    exact ⟨t, _, hcore, ht, herr, hs.red.trans (decide_eq_false (not_not.2 hg)), hs.m_reg, rfl,
      by rw [hkey, hs.b_reg, hoff]⟩
  · omega

/-! ## The order of the pairs (R123) -/

theorem finalInverse_clearPending (m b : Nat) (s : State) :
    (s.finalInverse m b).clearPending = s.clearPending.finalInverse m b := by
  unfold State.finalInverse
  split
  · rfl
  · split <;> rfl

theorem solveRule_clearPending (t : Samples) (s : State) :
    (solveRule t s).clearPending = solveRule t s.clearPending := by
  unfold solveRule
  dsimp only
  split
  · rfl
  · exact finalInverse_clearPending _ _ ((s.writeDiffs _ _ _).writeSolution _ _ _)

/-- KPS completes alike from two states that differ in the pending command only, when the pairs are the same after
ordering. -/
theorem exec_kps_congr {s1 s2 : State} {p1 c1 p2 c2 : Nat} (hs : s1.clearPending = s2.clearPending)
    (hl1 : KpsLengthsOk s1.operands) (hl2 : KpsLengthsOk s2.operands) (hp1 : KpsPairs s1.operands p1 c1 p2 c2)
    (hp2 : KpsPairs s2.operands p1 c1 p2 c2) : exec .kps s1 = exec .kps s2 := by
  have hfirst : (s1.statusFirst (encode .kps)).clearPending = (s2.statusFirst (encode .kps)).clearPending :=
    congrArg (State.statusFirst (encode .kps)) hs
  rw [exec_kps_of_lengthsOk hl1, exec_kps_of_lengthsOk hl2, hp1.order_eq, hp2.order_eq, solveRule_clearPending,
    solveRule_clearPending, hfirst]

theorem KpsPairs.lt_of_ne {o : OperandRegs} {p1 c1 p2 c2 : Nat} (hp : KpsPairs o p1 c1 p2 c2)
    (hne : o.kpsP1 ≠ o.kpsP2) : p2 < p1 := by
  rcases hp with ⟨hle, rfl, -, rfl, -⟩ | ⟨hlt, -⟩
  · exact lt_of_le_of_ne hle fun heq => hne (BitVec.eq_of_toNat_eq heq.symm)
  · exact hlt

/-- Pairs with equal plaintext bytes and different ciphertext bytes: g = 256 does not divide Δc (R127). -/
theorem exec_kps_of_equal_plaintexts {s : State} (hl : KpsLengthsOk s.operands)
    (hP : s.operands.kpsP1 = s.operands.kpsP2) (hC : s.operands.kpsC1 ≠ s.operands.kpsC2) :
    ∃ dc, exec .kps s = .next { s.reported 2 5 0 false false with
      kps := { s.kps with dp := 0, dc := dc, g := 256 } } := by
  have hp : KpsPairs s.operands s.operands.kpsP1.toNat s.operands.kpsC1.toNat s.operands.kpsP1.toNat
      s.operands.kpsC2.toNat := .inl ⟨le_rfl, rfl, rfl, by rw [hP], rfl⟩
  have hdc : byteDiff s.operands.kpsC1.toNat s.operands.kpsC2.toNat ≠ 0 := fun h =>
    hC (BitVec.eq_of_toNat_eq ((byteDiff_eq_zero_iff (BitVec.isLt _) (BitVec.isLt _)).1 h))
  have hndvd : byteDiff s.operands.kpsC1.toNat s.operands.kpsC2.toNat %
      Nat.gcd (s.operands.kpsP1.toNat - s.operands.kpsP1.toNat) 256 ≠ 0 := by
    rwa [Nat.sub_self, Nat.gcd_zero_left, Nat.mod_eq_of_lt (byteDiff_lt _ _)]
  have h := kpsReportsUnsolvable.1 s _ _ _ _ hl hp hndvd
  rw [Nat.sub_self] at h
  exact ⟨_, h⟩

/-- Settles O27: different plaintext bytes are ordered the same both ways; with equal ones both orders report the same
error, and only Δc can differ. -/
theorem kpsPairOrderDoesNotMatter : Obligations.KpsPairOrderDoesNotMatter := by
  intro s w o o' s1 s2
  by_cases hl : KpsLengthsOk o
  · refine ⟨fun hne => ?_, fun hP => ?_⟩
    · obtain ⟨p1, c1, p2, c2, hp⟩ := exists_kpsPairs o
      have hp' : KpsPairs o' p1 c1 p2 c2 := hp.swap (hp.lt_of_ne hne) rfl rfl rfl rfl
      exact exec_kps_congr (s1 := s1) (s2 := s2) rfl hl hl hp hp'
    · by_cases hC : o.kpsC1 = o.kpsC2
      · have h1 := kpsReportsUnsolvable.2 s1 hl hP hC
        have h2 := kpsReportsUnsolvable.2 s2 hl hP.symm hC.symm
        exact ⟨_, _, h1, h2, rfl, fun _ hne => absurd hC hne⟩
      · obtain ⟨dc1, h1⟩ := exec_kps_of_equal_plaintexts (s := s1) hl hP hC
        obtain ⟨dc2, h2⟩ := exec_kps_of_equal_plaintexts (s := s2) hl hP.symm (Ne.symm hC)
        exact ⟨_, _, h1, h2, rfl, fun _ _ => ⟨rfl, rfl⟩⟩
  · obtain ⟨e, -, hrep⟩ := exec_kps_of_not_lengthsOk hl
    have h1 := hrep s1 rfl rfl
    have h2 := hrep s2 rfl rfl
    exact ⟨fun _ => h1.trans h2.symm, fun _ => ⟨_, _, h1, h2, rfl, fun hl' => absurd hl' hl⟩⟩

end Sys2Proof.Machine
end

section
/-! PROOFS. The transform in the ring of bytes (R140, R142), and the key that the searches find for an encrypted
signature (R159). -/

namespace Sys2Proof.Machine

/-! ## Numbers as bytes -/

theorem ofInt_emod_256 (a : Int) : BitVec.ofInt 8 (a % 256) = BitVec.ofInt 8 a := by
  apply BitVec.eq_of_toNat_eq
  simp [BitVec.toNat_ofInt]

theorem byte_eq_ofNat {x : Byte} {n : Nat} (h : x.toNat = n) : x = BitVec.ofNat 8 n := by
  rw [← h, BitVec.ofNat_toNat, BitVec.setWidth_eq]

theorem eq_of_ofNat_byte_eq {a b : Nat} (ha : a < 256) (hb : b < 256) (h : BitVec.ofNat 8 a = BitVec.ofNat 8 b) :
    a = b := by
  have htoNat := congrArg BitVec.toNat h
  rwa [BitVec.toNat_ofNat, BitVec.toNat_ofNat, Nat.mod_eq_of_lt ha, Nat.mod_eq_of_lt hb] at htoNat

/-- A byte that holds an encryption m·P + b, as an expression over the bytes. -/
theorem byte_eq_of_encrypted {c : Byte} {m P b : Nat} (h : c.toNat = (m * P + b) % 256) :
    c = BitVec.ofNat 8 m * BitVec.ofNat 8 P + BitVec.ofNat 8 b := by
  rw [← BitVec.ofNat_mul, ← BitVec.ofNat_add]
  exact BitVec.eq_of_toNat_eq h

/-! ## Inverses of bytes (R107) -/

/-- What InvCore returns on an odd byte is its inverse. -/
theorem isInverse_of_invCore {m x : Nat} (hm : m ≤ 255) (hodd : m % 2 = 1) (h : invCore m 256 = .ok x) :
    IsInverse m 256 x := by
  obtain ⟨y, hy, hinv⟩ := invCore_of_coprime ⟨by decide, le_rfl, by omega, by omega⟩ ((gcd_256_eq_one_iff m).2 hodd)
  obtain rfl := InvResult.ok.inj (h.symm.trans hy)
  exact hinv

theorem IsInverse.ofNat_mul_ofNat {m x : Nat} (h : IsInverse m 256 x) :
    BitVec.ofNat 8 x * BitVec.ofNat 8 m = 1 := by
  obtain ⟨-, hprod⟩ := h
  rw [mul_comm, ← BitVec.ofNat_mul]
  exact BitVec.eq_of_toNat_eq hprod

theorem IsInverse.odd {m x : Nat} (h : IsInverse m 256 x) : x % 2 = 1 := by
  obtain ⟨-, hprod⟩ := h
  have hodd : Odd (m * x) := Nat.odd_iff.2 (by omega)
  exact Nat.odd_iff.1 (Nat.odd_mul.1 hodd).2

theorem exists_byte_inverse_of_odd {mi : Byte} (hodd : mi.toNat % 2 = 1) : ∃ m : Byte, mi * m = 1 := by
  have hlt := mi.isLt
  obtain ⟨x, -, hinv⟩ := invCore_of_coprime (n := 256) ⟨by decide, le_rfl, by omega, by omega⟩
    ((gcd_256_eq_one_iff mi.toNat).2 hodd)
  have hmul := hinv.ofNat_mul_ofNat
  rw [← byte_eq_ofNat rfl, mul_comm] at hmul
  exact ⟨_, hmul⟩

/-- An even byte annihilates 128. -/
theorem mul_128_of_even {mi : Byte} (heven : mi.toNat % 2 = 0) : mi * 128 = 0 := by
  apply BitVec.eq_of_toNat_eq
  rw [BitVec.toNat_mul]
  simp only [BitVec.reduceToNat]
  omega

/-! ## The transform (R140, R142) -/

theorem cast_decByte (mi b c : Nat) : (decByte mi b c : Int) = (mi : Int) * ((c : Int) - (b : Int)) % 256 :=
  modFloor_cast _ (by decide)

theorem decByte_lt (mi b c : Nat) : decByte mi b c < 256 := modFloor_lt _ (by decide)

/-- The gcd divides the product and the modulus, so it divides the remainder. -/
theorem gcd_dvd_decByte (mi b c : Nat) : Nat.gcd mi 256 ∣ decByte mi b c := by
  rw [← Int.natCast_dvd_natCast, cast_decByte]
  exact (EuclideanDomain.dvd_mod_iff (Int.natCast_dvd_natCast.2 (Nat.gcd_dvd_right mi 256))).2
    ((Int.natCast_dvd_natCast.2 (Nat.gcd_dvd_left mi 256)).mul_right _)

/-- Dec is the product and the difference of the ring of bytes. -/
theorem ofNat_decByte (mi b c : Nat) :
    BitVec.ofNat 8 (decByte mi b c) = BitVec.ofNat 8 mi * (BitVec.ofNat 8 c - BitVec.ofNat 8 b) := calc
  _ = BitVec.ofInt 8 (decByte mi b c) := (BitVec.ofInt_natCast 8 _).symm
  _ = BitVec.ofInt 8 ((mi : Int) * ((c : Int) - (b : Int))) := by rw [cast_decByte, ofInt_emod_256]
  _ = (((mi : Int) * ((c : Int) - (b : Int)) : Int) : Byte) := rfl
  _ = _ := by push_cast; rfl

theorem ofNat_decByte_toNat (mi b c : Byte) :
    BitVec.ofNat 8 (decByte mi.toNat b.toNat c.toNat) = mi * (c - b) := by
  simp only [ofNat_decByte, BitVec.ofNat_toNat, BitVec.setWidth_eq]

/-- The completion of DEC: the byte product and the report. -/
theorem exec_dec (s : State) : exec .dec s = .next { s.reported 3 0 0 false false with
    decOut := s.operands.keyMinv * (s.operands.decIn - s.operands.keyB) } := by
  rw [← ofNat_decByte_toNat]
  rfl

/-- Settles O29: the integer of R140 and the byte product are one byte. -/
theorem decDecryptsTheByte : Obligations.DecDecryptsTheByte := by
  intro s
  refine ⟨?_, exec_dec s⟩
  rw [exec_dec, ← ofNat_decByte_toNat, ← cast_decByte, BitVec.ofInt_natCast]

theorem decrypt_encrypt {mi m : Byte} (hinv : mi * m = 1) (b P : Byte) : mi * (m * P + b - b) = P := by
  rw [add_sub_cancel_right, ← mul_assoc, hinv, one_mul]

/-- DEC with the inverse of m and with b gives back the byte that m and b encrypted. -/
theorem exec_dec_of_encrypted {s : State} {m b P : Nat} (hinv : IsInverse m 256 s.operands.keyMinv.toNat)
    (hb : s.operands.keyB.toNat = b) (hc : s.operands.decIn.toNat = (m * P + b) % 256) :
    ∃ t, exec .dec s = .next t ∧ t.decOut = BitVec.ofNat 8 P := by
  have hmul := hinv.ofNat_mul_ofNat
  rw [← byte_eq_ofNat rfl] at hmul
  refine ⟨_, exec_dec s, ?_⟩
  rw [byte_eq_of_encrypted hc, byte_eq_ofNat hb]
  exact decrypt_encrypt hmul _ _

/-- Settles O30. -/
theorem decUndoesEncryption : Obligations.DecUndoesEncryption := by
  intro s m b P hm hodd _ hP hcore hb hc
  obtain ⟨t, ht, hout⟩ := exec_dec_of_encrypted (isInverse_of_invCore hm hodd hcore) hb hc
  exact ⟨t, ht, by rw [hout, BitVec.toNat_ofNat, Nat.mod_eq_of_lt (by omega)]⟩

/-- Settles O31: an odd mi is undone by encrypting with its inverse; an even one sends b and b + 128 to 0. -/
theorem decIsABijectionForOddKeys : Obligations.DecIsABijectionForOddKeys := by
  intro mi b
  simp only [ofNat_decByte_toNat]
  refine ⟨fun hodd => ?_, fun heven => ⟨fun ⟨hinj, _⟩ => ?_, fun c => ?_⟩⟩
  · obtain ⟨m, hm⟩ := exists_byte_inverse_of_odd hodd
    refine Function.bijective_iff_has_inverse.2 ⟨fun p => m * p + b, fun c => ?_, fun p => decrypt_encrypt hm b p⟩
    calc m * (mi * (c - b)) + b
      _ = mi * m * (c - b) + b := by ring
      _ = c := by rw [hm, one_mul, sub_add_cancel]
  · have hsame : mi * (b + 128 - b) = mi * (b - b) := by
      rw [add_sub_cancel_left, sub_self, mul_zero, mul_128_of_even heven]
    have : b + 128 = b := hinj hsame
    simp at this
  · exact gcd_dvd_decByte mi.toNat b.toNat c.toNat

/-! ## The searches (R150, R155, R159) -/

/-- A candidate matches when its product with each header byte's difference is the signature byte (R150). -/
theorem isMatch_iff (o : OperandRegs) (c : Candidate) : isMatch o c = true ↔
    BitVec.ofNat 8 c.mi * (o.srchH0 - BitVec.ofNat 8 c.b) = o.sig0 ∧
      BitVec.ofNat 8 c.mi * (o.srchH1 - BitVec.ofNat 8 c.b) = o.sig1 := by
  have hbyte (h p : Byte) : decByte c.mi c.b h.toNat = p.toNat ↔
      BitVec.ofNat 8 c.mi * (h - BitVec.ofNat 8 c.b) = p := by
    have hdec := ofNat_decByte c.mi c.b h.toNat
    rw [← byte_eq_ofNat rfl] at hdec
    rw [← hdec, ← BitVec.toNat_inj, BitVec.toNat_ofNat, Nat.mod_eq_of_lt (decByte_lt _ _ _)]
  simp only [isMatch, Bool.and_eq_true, beq_iff_eq, hbyte]

/-- A match that is the only one among the candidates is where the loop stops. -/
theorem firstMatch_of_unique {hit : Candidate → Bool} {l : List Candidate} {c : Candidate} (hmem : c ∈ l)
    (hhit : hit c = true) (huniq : ∀ c' ∈ l, hit c' = true → c' = c) (n : Nat) :
    (firstMatch hit l n).1 = some c := by
  rcases firstMatch_cases hit l n with ⟨-, hnone⟩ | ⟨pre, c', post, hl, -, hhit', hf⟩
  · rw [hnone c hmem] at hhit
    cases hhit
  · rw [hf, huniq c' (by simp [hl]) hhit']

/-- A search with exactly one matching candidate finds its key. -/
theorem exec_search_of_unique {i : Instr} {mis : List Nat} (hrule : ruleOf i = searchRule mis) {s : State}
    {c : Candidate} (hmem : c ∈ candidates mis) (hmatch : isMatch s.operands c = true)
    (huniq : ∀ c' ∈ candidates mis, isMatch s.operands c' = true → c' = c) :
    ∃ t, exec i s = .next t ∧ t.status.found = true ∧ t.ops.keyMinv = BitVec.ofNat 8 c.mi ∧
      t.ops.keyB = BitVec.ofNat 8 c.b := by
  refine ⟨_, exec_eq i s, ?_⟩
  have hfirst := firstMatch_of_unique hmem hmatch huniq 0
  rw [complete_spec, hrule, searchRule]
  rcases writeSearch_cases (firstMatch (isMatch s.operands) (candidates mis) 0) (s.statusFirst (encode i)) with
    ⟨c', hc', hw⟩ | ⟨hnone, -⟩
  · obtain rfl := Option.some.inj (hfirst.symm.trans hc')
    rw [hw]
    exact ⟨rfl, rfl, rfl⟩
  · cases hfirst.symm.trans hnone

/-- Two bytes encrypted with one key, whose difference has an inverse u, are decrypted by that key only: the difference
gives m⁻¹, and then either byte gives b (R152). -/
theorem key_eq_of_decrypts_pair {x m b s0 s1 u mi b' : Byte} (hinv : x * m = 1) (hu : u * (s0 - s1) = 1)
    (h0 : mi * (m * s0 + b - b') = s0) (h1 : mi * (m * s1 + b - b') = s1) : mi = x ∧ b' = b := by
  have hmi : mi * m = 1 := by linear_combination u * (h0 - h1) - (mi * m - 1) * hu
  exact ⟨by linear_combination x * hmi - mi * hinv, by linear_combination (b - b') * hmi - m * h0 + m * s0 * hmi⟩

/-- The m⁻¹ values of a search are bytes, and every odd byte is among them (R150, R155). -/
theorem search_minvs {i : Instr} (hi : i = .bfs ∨ i = .eks) : ∃ mis : List Nat, ruleOf i = searchRule mis ∧
    (∀ mi ∈ mis, mi < 256) ∧ ∀ mi, mi < 256 → mi % 2 = 1 → mi ∈ mis := by
  rcases hi with rfl | rfl
  · refine ⟨allMinvs, rfl, fun mi hmi => ?_, fun mi hlt hodd => (mem_allMinvs mi).2 (by omega)⟩
    have := (mem_allMinvs mi).1 hmi
    omega
  · refine ⟨coprimeMinvs, rfl, fun mi hmi => ?_, fun mi hlt hodd =>
      (mem_coprimeMinvs mi).2 ⟨by omega, (gcd_256_eq_one_iff mi).2 hodd⟩⟩
    have := ((mem_coprimeMinvs mi).1 hmi).1
    omega

section
variable {s : State} {m b x : Nat} {u : Byte} (hinv : IsInverse m 256 x) (hb : b < 256)
  (hu : u * (s.operands.sig0 - s.operands.sig1) = 1)
  (h0 : s.operands.srchH0 = BitVec.ofNat 8 m * s.operands.sig0 + BitVec.ofNat 8 b)
  (h1 : s.operands.srchH1 = BitVec.ofNat 8 m * s.operands.sig1 + BitVec.ofNat 8 b)
include hinv hb hu h0 h1

/-- For header bytes encrypted from a signature whose bytes differ by an invertible byte, a candidate matches exactly
when it is the key (R150, R152). -/
theorem isMatch_encrypted_iff {c : Candidate} (hmi : c.mi < 256) (hcb : c.b < 256) :
    isMatch s.operands c = true ↔ c = { mi := x, b := b } := by
  have hx : x < 256 := hinv.1
  rw [isMatch_iff, h0, h1]
  constructor
  · rintro ⟨hdec0, hdec1⟩
    obtain ⟨hmi', hb'⟩ := key_eq_of_decrypts_pair hinv.ofNat_mul_ofNat hu hdec0 hdec1
    exact congrArg₂ Candidate.mk (eq_of_ofNat_byte_eq hmi hx hmi') (eq_of_ofNat_byte_eq hcb hb hb')
  · rintro rfl
    exact ⟨decrypt_encrypt hinv.ofNat_mul_ofNat _ _, decrypt_encrypt hinv.ofNat_mul_ofNat _ _⟩

/-- Either search finds the inverse of the multiplier that encrypted the header, and its offset. -/
theorem exec_search_of_encrypted {i : Instr} (hi : i = .bfs ∨ i = .eks) :
    ∃ t, exec i s = .next t ∧ t.status.found = true ∧ t.ops.keyMinv.toNat = x ∧ t.ops.keyB.toNat = b := by
  have hx : x < 256 := hinv.1
  obtain ⟨mis, hrule, hlt, hodd⟩ := search_minvs hi
  have hmem : { mi := x, b := b } ∈ candidates mis := (mem_candidates mis _).2 ⟨hodd x hx hinv.odd, hb⟩
  have huniq : ∀ c ∈ candidates mis, isMatch s.operands c = true → c = { mi := x, b := b } := fun c hc => by
    obtain ⟨hmi, hcb⟩ := (mem_candidates mis c).1 hc
    exact (isMatch_encrypted_iff hinv hb hu h0 h1 (hlt _ hmi) hcb).1
  obtain ⟨t, ht, hfound, hkey, hkeyB⟩ :=
    exec_search_of_unique hrule hmem ((isMatch_encrypted_iff hinv hb hu h0 h1 hx hb).2 rfl) huniq
  exact ⟨t, ht, hfound, by rw [hkey, BitVec.toNat_ofNat, Nat.mod_eq_of_lt hx],
    by rw [hkeyB, BitVec.toNat_ofNat, Nat.mod_eq_of_lt hb]⟩

end

/-- Settles O37: the default signature's bytes differ by 39, whose inverse modulo 256 is 151. -/
theorem searchRecoversTheEncryptingKey : Obligations.SearchRecoversTheEncryptingKey := by
  intro s m b x hm hodd hb hcore hs0 hs1 hh0 hh1
  have hinv := isInverse_of_invCore hm hodd hcore
  have hdiff : 151 * (s.operands.sig0 - s.operands.sig1) = 1 := by
    rw [hs0, hs1]
    decide
  refine ⟨fun i hi => ?_, fun u hkey hkeyB => ⟨fun hc => ?_, fun hc => ?_⟩⟩
  · exact exec_search_of_encrypted hinv (Nat.lt_succ_of_le hb) hdiff (by rw [hs0]; exact byte_eq_of_encrypted hh0)
      (by rw [hs1]; exact byte_eq_of_encrypted hh1) hi
  · exact exec_dec_of_encrypted (hkey.symm ▸ hinv) hkeyB (hc.symm ▸ hh0)
  · exact exec_dec_of_encrypted (hkey.symm ▸ hinv) hkeyB (hc.symm ▸ hh1)

end Sys2Proof.Machine
end

section
/-! PROOFS. The searches: which candidate the loop stops at and its count, EKS against BFS, the key of an odd signature
difference, and what a search depends on (R150 to R158). -/

namespace Sys2Proof.Machine

/-! ## Matching candidates (R150) -/

theorem decrypts_iff_decByte (mi b c p : Nat) : Decrypts mi b c p ↔ decByte mi b c = p := by
  rw [Decrypts, ← cast_decByte, Int.natCast_inj]

/-- Over BFS's candidates the loop's test is the match of R150. -/
theorem isMatch_iff_matches (o : OperandRegs) {mi b : Nat} (hmi : 1 ≤ mi ∧ mi ≤ 255) (hb : b < 256) :
    isMatch o { mi := mi, b := b } = true ↔ Matches o mi b := by
  obtain ⟨hlo, hhi⟩ := hmi
  simp [isMatch, Matches, decrypts_iff_decByte, hlo, hhi, Nat.le_of_lt_succ hb]

/-- A match as two products of bytes, over BFS's range of keys. -/
theorem matches_iff (o : OperandRegs) (mi b : Nat) : Matches o mi b ↔ (1 ≤ mi ∧ mi ≤ 255) ∧ b < 256 ∧
    BitVec.ofNat 8 mi * (o.srchH0 - BitVec.ofNat 8 b) = o.sig0 ∧
      BitVec.ofNat 8 mi * (o.srchH1 - BitVec.ofNat 8 b) = o.sig1 := by
  have hbounds : Matches o mi b → (1 ≤ mi ∧ mi ≤ 255) ∧ b < 256 := fun ⟨hlo, hhi, hb, _⟩ => ⟨⟨hlo, hhi⟩, by omega⟩
  constructor
  · intro h
    obtain ⟨hmi, hb⟩ := hbounds h
    exact ⟨hmi, hb, (isMatch_iff o _).1 ((isMatch_iff_matches o hmi hb).2 h)⟩
  · rintro ⟨hmi, hb, hbytes⟩
    exact (isMatch_iff_matches o hmi hb).1 ((isMatch_iff o _).2 hbytes)

/-- Where some candidate matches, there is a first one: the one with the least 256·mi + b. -/
theorem exists_first_matches {o : OperandRegs} (h : ∃ mi b, Matches o mi b) :
    ∃ mi b, Matches o mi b ∧ ∀ mi' b', Matches o mi' b' → KeyBefore mi b mi' b' := by
  obtain ⟨mi₀, b₀, h₀⟩ := h
  obtain ⟨⟨mi, b⟩, hm, hmin⟩ := (measure fun c : Nat × Nat => 256 * c.1 + c.2).wf.has_min
    {c | Matches o c.1 c.2} ⟨(mi₀, b₀), h₀⟩
  refine ⟨mi, b, hm, fun mi' b' hm' => ?_⟩
  have hle : ¬ 256 * mi' + b' < 256 * mi + b := hmin (mi', b') hm'
  obtain ⟨-, hb, -⟩ := (matches_iff o mi b).1 hm
  obtain ⟨-, hb', -⟩ := (matches_iff o mi' b').1 hm'
  unfold KeyBefore
  omega

/-! ## Where the loop stops (R150, R155, R156) -/

theorem firstMatch_append_cons {hit : Candidate → Bool} {pre : List Candidate} {c : Candidate}
    (hpre : ∀ c' ∈ pre, hit c' = false) (hc : hit c = true) (post : List Candidate) (n : Nat) :
    firstMatch hit (pre ++ c :: post) n = (some c, n + pre.length + 1) := by
  induction pre generalizing n with
  | nil => simp [firstMatch, hc]
  | cons a pre ih =>
    obtain ⟨ha, hrest⟩ := List.forall_mem_cons.1 hpre
    rw [List.cons_append, firstMatch, if_neg (by simp [ha]), ih hrest, List.length_cons]
    congr 1
    omega

theorem firstMatch_of_forall_not {hit : Candidate → Bool} {l : List Candidate} (h : ∀ c ∈ l, hit c = false) (n : Nat) :
    firstMatch hit l n = (none, n + l.length) := by
  rcases firstMatch_cases hit l n with ⟨hf, -⟩ | ⟨pre, c, post, hl, -, hc, -⟩
  · exact hf
  · rw [h c (by simp [hl])] at hc
    cases hc

theorem range'_eq_append_cons {k n : Nat} (hk : k < n) (start step : Nat) : List.range' start n step =
    List.range' start k step ++ (start + step * k) :: List.range' (start + step * (k + 1)) (n - k - 1) step := by
  obtain ⟨d, rfl⟩ := Nat.exists_eq_add_of_lt hk
  rw [show k + d + 1 = k + (d + 1) by omega, ← List.range'_append, List.range'_succ]
  rw [show k + (d + 1) - k - 1 = d by omega, Nat.mul_succ, Nat.add_assoc]

theorem candidates_append (l₁ l₂ : List Nat) : candidates (l₁ ++ l₂) = candidates l₁ ++ candidates l₂ :=
  List.flatMap_append

/-- The candidates that a search over `start`, `start + step`, … tries before `(start + step·k, b)`. -/
def candidatesBefore (start step k b : Nat) : List Candidate :=
  candidates (List.range' start k step) ++ (List.range' 0 b).map fun b' => { mi := start + step * k, b := b' }

theorem candidates_range'_eq_append_cons {k n b : Nat} (hk : k < n) (hb : b < 256) (start step : Nat) :
    ∃ post, candidates (List.range' start n step) =
      candidatesBefore start step k b ++ { mi := start + step * k, b := b } :: post := by
  rw [range'_eq_append_cons hk, candidates_append, candidates_cons, range'_eq_append_cons hb 0 1, candidatesBefore]
  simp

theorem length_candidatesBefore (start step k b : Nat) : (candidatesBefore start step k b).length = k * 256 + b := by
  simp [candidatesBefore, length_candidates]

/-- Each of them comes strictly before `(start + step·k, b)` in the order of R150. -/
theorem mem_candidatesBefore {start step k b : Nat} (hstep : 0 < step) {c : Candidate}
    (hc : c ∈ candidatesBefore start step k b) :
    (start ≤ c.mi ∧ c.mi < start + step * k ∧ c.b < 256) ∨ (c.mi = start + step * k ∧ c.b < b) := by
  rcases List.mem_append.1 hc with hc | hc
  · obtain ⟨hmi, hb⟩ := (mem_candidates _ c).1 hc
    obtain ⟨j, hj, hmi⟩ := List.mem_range'.1 hmi
    have := Nat.mul_lt_mul_of_pos_left hj hstep
    exact .inl (by omega)
  · obtain ⟨b', hb', rfl⟩ := List.mem_map.1 hc
    exact .inr ⟨rfl, by simpa [List.mem_range'_1] using hb'⟩

/-- The loop stops at the first match, after counting every candidate before it. -/
theorem firstMatch_of_first {o : OperandRegs} {mis : List Nat} {n step k b : Nat} (hmis : mis = List.range' 1 n step)
    (hstep : 0 < step) (hk : k < n) (hm : Matches o (1 + step * k) b)
    (hfirst : ∀ mi' ∈ mis, ∀ b', Matches o mi' b' → KeyBefore (1 + step * k) b mi' b') :
    firstMatch (isMatch o) (candidates mis) 0 = (some { mi := 1 + step * k, b := b }, k * 256 + b + 1) := by
  subst hmis
  obtain ⟨hmi, hb, -⟩ := (matches_iff o _ b).1 hm
  obtain ⟨post, hsplit⟩ := candidates_range'_eq_append_cons hk hb 1 step
  have hpre : ∀ c ∈ candidatesBefore 1 step k b, isMatch o c = false := fun c hc => by
    have hbefore := mem_candidatesBefore hstep hc
    have hmem : c.mi ∈ List.range' 1 n step :=
      ((mem_candidates _ c).1 (hsplit ▸ List.mem_append_left _ hc)).1
    refine Bool.eq_false_iff.2 fun hhit => ?_
    have hkey := hfirst c.mi hmem c.b ((isMatch_iff_matches o (by omega) (by omega)).1 hhit)
    unfold KeyBefore at hkey
    omega
  rw [hsplit, firstMatch_append_cons hpre ((isMatch_iff_matches o hmi hb).2 hm), length_candidatesBefore, Nat.zero_add]

theorem firstMatch_of_no_matches {o : OperandRegs} {mis : List Nat} (hmis : ∀ mi ∈ mis, 1 ≤ mi ∧ mi ≤ 255)
    (hnone : ∀ mi ∈ mis, ∀ b, ¬ Matches o mi b) :
    firstMatch (isMatch o) (candidates mis) 0 = (none, mis.length * 256) := by
  have hmiss : ∀ c ∈ candidates mis, isMatch o c = false := fun c hc => by
    obtain ⟨hmi, hb⟩ := (mem_candidates mis c).1 hc
    exact Bool.eq_false_iff.2 fun hhit => hnone c.mi hmi c.b ((isMatch_iff_matches o (hmis _ hmi) hb).1 hhit)
  rw [firstMatch_of_forall_not hmiss, length_candidates, Nat.zero_add]

/-! ## The completion of a search (R150, R155) -/

section
variable {i : Instr} {mis : List Nat} (hrule : ruleOf i = searchRule mis) {s : State}
include hrule

theorem exec_search_of_found {c : Candidate} {count : Nat}
    (hf : firstMatch (isMatch s.operands) (candidates mis) 0 = (some c, count)) :
    exec i s = .next { s.reported i.opcode 0 0 true false with
      ops := { s.ops with keyMinv := BitVec.ofNat 8 c.mi, keyB := BitVec.ofNat 8 c.b }
      srchCnt := BitVec.ofNat 16 count } := by
  rw [exec_eq, complete_spec, hrule, searchRule, hf, ← opField_encode]
  rfl

theorem exec_search_of_not_found {count : Nat}
    (hf : firstMatch (isMatch s.operands) (candidates mis) 0 = (none, count)) :
    exec i s = .next { s.reported i.opcode 0 0 false false with srchCnt := BitVec.ofNat 16 count } := by
  rw [exec_eq, complete_spec, hrule, searchRule, hf, ← opField_encode]
  rfl

end

theorem length_allMinvs : allMinvs.length = 255 := List.length_range'

theorem mem_coprimeMinvs_iff_odd (mi : Nat) : mi ∈ coprimeMinvs ↔ (1 ≤ mi ∧ mi ≤ 255) ∧ mi % 2 = 1 := by
  rw [mem_coprimeMinvs, gcd_256_eq_one_iff]

/-- The m⁻¹ values of EKS are 1, 3, …, 255. -/
theorem coprimeMinvs_eq_range' : coprimeMinvs = List.range' 1 128 2 := by decide

theorem length_coprimeMinvs : coprimeMinvs.length = 128 := by rw [coprimeMinvs_eq_range', List.length_range']

/-- Settles O32: R150's mi stands at place mi − 1 of the m⁻¹ values. -/
theorem bfsFindsTheFirstKey : Obligations.BfsFindsTheFirstKey := by
  refine fun s => ⟨fun mi b hm hfirst => ?_, fun hnone => ?_⟩
  · obtain ⟨hmi, -⟩ := (matches_iff _ mi b).1 hm
    obtain ⟨k, rfl⟩ : ∃ k, mi = 1 + 1 * k := ⟨mi - 1, by omega⟩
    rw [show 1 + 1 * k - 1 = k by omega]
    exact exec_search_of_found rfl
      (firstMatch_of_first (mis := allMinvs) rfl (by decide) (by omega) hm fun mi' _ => hfirst mi')
  · have hf := firstMatch_of_no_matches (fun mi => (mem_allMinvs mi).1) fun mi _ => hnone mi
    rw [length_allMinvs] at hf
    exact exec_search_of_not_found rfl hf

/-- Settles O33: R155's mi stands at place (mi − 1)/2 of the m⁻¹ values. -/
theorem eksFindsTheFirstOddKey : Obligations.EksFindsTheFirstOddKey := by
  refine fun s => ⟨fun mi b hm hodd hfirst => ?_, fun heven => ?_⟩
  · obtain ⟨hmi, -⟩ := (matches_iff _ mi b).1 hm
    obtain ⟨k, rfl⟩ : ∃ k, mi = 1 + 2 * k := ⟨mi / 2, by omega⟩
    rw [show (1 + 2 * k - 1) / 2 = k by omega]
    refine exec_search_of_found rfl
      (firstMatch_of_first coprimeMinvs_eq_range' (by decide) (by omega) hm fun mi' hmi' b' hm' => ?_)
    exact hfirst mi' b' hm' ((mem_coprimeMinvs_iff_odd mi').1 hmi').2
  · have hnone : ∀ mi ∈ coprimeMinvs, ∀ b, ¬ Matches s.operands mi b := fun mi hmi b hm => by
      have hodd := ((mem_coprimeMinvs_iff_odd mi).1 hmi).2
      have := heven mi b hm
      omega
    have hf := firstMatch_of_no_matches (fun mi hmi => ((mem_coprimeMinvs_iff_odd mi).1 hmi).1) hnone
    rw [length_coprimeMinvs] at hf
    exact exec_search_of_not_found rfl hf

/-! ## EKS against BFS (R157) -/

/-- With an even and an odd matching m⁻¹ the odd difference of the two is invertible, so the header bytes are equal, and
the signature bytes with them; then m⁻¹ = 1 matches. -/
theorem exists_matches_one {o : OperandRegs} {mi b mi' b' : Nat} (hm : Matches o mi b) (heven : mi % 2 = 0)
    (hm' : Matches o mi' b') (hodd : mi' % 2 = 1) : ∃ b₁, Matches o 1 b₁ := by
  obtain ⟨-, -, h0, h1⟩ := (matches_iff o mi b).1 hm
  obtain ⟨-, -, h0', h1'⟩ := (matches_iff o mi' b').1 hm'
  obtain ⟨w, hw⟩ := exists_byte_inverse_of_odd (mi := BitVec.ofNat 8 mi' - BitVec.ofNat 8 mi) (by
    rw [BitVec.toNat_sub, BitVec.toNat_ofNat, BitVec.toNat_ofNat]
    omega)
  have hheader : o.srchH0 = o.srchH1 := by
    linear_combination w * (h0' - h1' - h0 + h1) - (o.srchH0 - o.srchH1) * hw
  have hsig : o.sig0 = o.sig1 := by rw [← h0, ← h1, hheader]
  have hone : BitVec.ofNat 8 1 * (o.srchH0 - (o.srchH0 - o.sig0)) = o.sig0 := by
    rw [sub_sub_cancel]
    exact one_mul _
  refine ⟨(o.srchH0 - o.sig0).toNat, (matches_iff o 1 _).2 ⟨by decide, BitVec.isLt _, ?_⟩⟩
  rw [← byte_eq_ofNat rfl]
  exact ⟨hone, by rw [← hsig, ← hheader, hone]⟩

/-- When the first match is even, no odd m⁻¹ matches. -/
theorem matches_even_of_first_even {o : OperandRegs} {mi b : Nat} (hm : Matches o mi b) (heven : mi % 2 = 0)
    (hfirst : ∀ mi' b', Matches o mi' b' → KeyBefore mi b mi' b') {mi' b' : Nat} (hm' : Matches o mi' b') :
    mi' % 2 = 0 := by
  by_contra hodd
  obtain ⟨b₁, hone⟩ := exists_matches_one hm heven hm' (by omega)
  obtain ⟨hmi, -⟩ := (matches_iff o mi b).1 hm
  have hkey := hfirst 1 b₁ hone
  unfold KeyBefore at hkey
  omega

/-- What a completed BFS can answer: not found where nothing matches, or the first match, whose m⁻¹ KEY_MINV holds
without loss. -/
theorem exec_bfs_next_cases {s t : State} (h : exec .bfs s = .next t) :
    ((∀ mi b, ¬ Matches s.operands mi b) ∧ t.status.found = false) ∨
    (∃ mi b, Matches s.operands mi b ∧ (∀ mi' b', Matches s.operands mi' b' → KeyBefore mi b mi' b') ∧
      t.status.found = true ∧ t.ops.keyMinv.toNat = mi ∧
      t.ops = { s.ops with keyMinv := BitVec.ofNat 8 mi, keyB := BitVec.ofNat 8 b }) := by
  obtain ⟨hfound, hnot⟩ := bfsFindsTheFirstKey s
  by_cases hex : ∃ mi b, Matches s.operands mi b
  · obtain ⟨mi, b, hm, hfirst⟩ := exists_first_matches hex
    obtain ⟨hmi, -⟩ := (matches_iff _ mi b).1 hm
    cases (hfound mi b hm hfirst).symm.trans h
    refine .inr ⟨mi, b, hm, hfirst, rfl, ?_, rfl⟩
    exact (BitVec.toNat_ofNat mi 8).trans (Nat.mod_eq_of_lt (by omega))
  · have hnone : ∀ mi b, ¬ Matches s.operands mi b := fun mi b hm => hex ⟨mi, b, hm⟩
    cases (hnot hnone).symm.trans h
    exact .inl ⟨hnone, rfl⟩

/-- Settles O34: a first match that is odd is the first odd one, and after an even one there is no odd one. -/
theorem eksAgreesWithBfs : Obligations.EksAgreesWithBfs := by
  intro s t u ht hu
  obtain ⟨hfound, hnot⟩ := eksFindsTheFirstOddKey s
  rcases exec_bfs_next_cases ht with ⟨hnone, hf⟩ | ⟨mi, b, hm, hfirst, hf, hmi, hops⟩
  · cases (hnot fun mi b hm => absurd hm (hnone mi b)).symm.trans hu
    exact ⟨fun htrue => absurd (hf.symm.trans htrue) (by decide), fun _ => ⟨rfl, rfl⟩⟩
  · rw [hmi, hf]
    rcases Nat.mod_two_eq_zero_or_one mi with heven | hodd
    · cases (hnot fun _ _ => matches_even_of_first_even hm heven hfirst).symm.trans hu
      exact ⟨fun _ hodd => by omega, fun _ => ⟨rfl, rfl⟩⟩
    · cases (hfound mi b hm hodd fun mi' b' hm' _ => hfirst mi' b' hm').symm.trans hu
      exact ⟨fun _ _ => ⟨rfl, hops.symm⟩, by simp [hodd]⟩

/-! ## The key of an odd signature difference (R152) -/

theorem toNat_sub_eq_byteDiff (x y : Byte) : (x - y).toNat = byteDiff x.toNat y.toNat := by
  rw [BitVec.toNat_sub, byteDiff]
  have := y.isLt
  congr 1
  omega

theorem mul_odd_iff (x y : Byte) : (x * y).toNat % 2 = 1 ↔ x.toNat % 2 = 1 ∧ y.toNat % 2 = 1 := by
  rw [BitVec.toNat_mul, Nat.mod_mod_of_dvd _ (by decide), ← Nat.odd_iff, Nat.odd_mul, Nat.odd_iff, Nat.odd_iff]

theorem ofNat_byte_eq_iff {n : Nat} (hn : n < 256) (x : Byte) : BitVec.ofNat 8 n = x ↔ n = x.toNat := by
  rw [← BitVec.toNat_inj, BitVec.toNat_ofNat, Nat.mod_eq_of_lt hn]

theorem toNat_ofNat_byte_mod_two (n : Nat) : (BitVec.ofNat 8 n).toNat % 2 = n % 2 := by
  rw [BitVec.toNat_ofNat, Nat.mod_mod_of_dvd _ (by decide)]

/-- A matching m⁻¹ takes the difference of the header bytes to that of the signature bytes. -/
theorem Matches.mul_header_sub {o : OperandRegs} {mi b : Nat} (h : Matches o mi b) :
    BitVec.ofNat 8 mi * (o.srchH0 - o.srchH1) = o.sig0 - o.sig1 := by
  obtain ⟨-, -, h0, h1⟩ := (matches_iff o mi b).1 h
  linear_combination h0 - h1

theorem Matches.odd_of_sig_sub_odd {o : OperandRegs} {mi b : Nat} (h : Matches o mi b)
    (hsig : (o.sig0 - o.sig1).toNat % 2 = 1) : mi % 2 = 1 ∧ (o.srchH0 - o.srchH1).toNat % 2 = 1 := by
  rwa [← h.mul_header_sub, mul_odd_iff, toNat_ofNat_byte_mod_two] at hsig

theorem Matches.sig_even {o : OperandRegs} {mi b : Nat} (h : Matches o mi b) (heven : mi % 2 = 0) :
    o.sig0.toNat % 2 = 0 ∧ o.sig1.toNat % 2 = 0 := by
  obtain ⟨-, -, h0, h1⟩ := (matches_iff o mi b).1 h
  have hprod (x : Byte) : (BitVec.ofNat 8 mi * x).toNat % 2 = 0 := by
    have := mul_odd_iff (BitVec.ofNat 8 mi) x
    rw [toNat_ofNat_byte_mod_two] at this
    omega
  rw [← h0, ← h1]
  exact ⟨hprod _, hprod _⟩

/-- The closed form in the ring of bytes: with x inverse to the header's difference and y to the product of x and the
signature's difference, m⁻¹ is that product and b the one offset that decrypts the first byte. -/
theorem decrypts_pair_iff {h0 h1 s0 s1 x y mi b : Byte} (hx : x * (h0 - h1) = 1) (hy : y * ((s0 - s1) * x) = 1) :
    (mi * (h0 - b) = s0 ∧ mi * (h1 - b) = s1) ↔ mi = (s0 - s1) * x ∧ b = h0 - s0 * y := by
  constructor
  · rintro ⟨hd0, hd1⟩
    have hmi : mi = (s0 - s1) * x := by linear_combination x * (hd0 - hd1) - mi * hx
    refine ⟨hmi, ?_⟩
    rw [← hmi] at hy
    linear_combination (h0 - b) * hy - y * hd0
  · rintro ⟨rfl, rfl⟩
    exact ⟨by linear_combination s0 * hy, by linear_combination s0 * hy - (s0 - s1) * hx⟩

/-- InvCore inverts an odd byte. -/
theorem exists_invCore_of_odd {m : Nat} (hm : m < 256) (hodd : m % 2 = 1) :
    ∃ x, invCore m 256 = .ok x ∧ IsInverse m 256 x :=
  invCore_of_coprime ⟨by decide, le_rfl, by omega, by omega⟩ ((gcd_256_eq_one_iff m).2 hodd)

/-- Both differences odd: the two inverses exist, and the closed form is the one match. -/
theorem exists_unique_matches {o : OperandRegs} (hsig : (o.sig0 - o.sig1).toNat % 2 = 1)
    (hheader : (o.srchH0 - o.srchH1).toNat % 2 = 1) :
    ∃ x y, invCore (o.srchH0 - o.srchH1).toNat 256 = .ok x ∧
      invCore ((o.sig0 - o.sig1).toNat * x % 256) 256 = .ok y ∧
      ∀ mi b, Matches o mi b ↔
        mi = (o.sig0 - o.sig1).toNat * x % 256 ∧ b = byteDiff o.srchH0.toNat (o.sig0.toNat * y % 256) := by
  obtain ⟨x, hx, hinvx⟩ := exists_invCore_of_odd (BitVec.isLt _) hheader
  have hkey : ((o.sig0 - o.sig1) * BitVec.ofNat 8 x).toNat = (o.sig0 - o.sig1).toNat * x % 256 := by
    rw [BitVec.toNat_mul, BitVec.toNat_ofNat, Nat.mod_eq_of_lt hinvx.1]
  have hkey_odd : ((o.sig0 - o.sig1) * BitVec.ofNat 8 x).toNat % 2 = 1 :=
    (mul_odd_iff _ _).2 ⟨hsig, by rw [BitVec.toNat_ofNat, Nat.mod_eq_of_lt hinvx.1]; exact hinvx.odd⟩
  obtain ⟨y, hy, hinvy⟩ := exists_invCore_of_odd (BitVec.isLt _) hkey_odd
  have hoffset : (o.srchH0 - o.sig0 * BitVec.ofNat 8 y).toNat = byteDiff o.srchH0.toNat (o.sig0.toNat * y % 256) := by
    rw [toNat_sub_eq_byteDiff, BitVec.toNat_mul, BitVec.toNat_ofNat, Nat.mod_eq_of_lt hinvy.1]
  have hmulx := hinvx.ofNat_mul_ofNat
  have hmuly := hinvy.ofNat_mul_ofNat
  rw [← byte_eq_ofNat rfl] at hmulx hmuly
  refine ⟨x, y, hx, hkey ▸ hy, fun mi b => ?_⟩
  rw [matches_iff, decrypts_pair_iff hmulx hmuly, ← hkey, ← hoffset]
  constructor
  · rintro ⟨hmi, hb, hmi', hb'⟩
    exact ⟨(ofNat_byte_eq_iff (by omega) _).1 hmi', (ofNat_byte_eq_iff hb _).1 hb'⟩
  · rintro ⟨rfl, rfl⟩
    refine ⟨?_, BitVec.isLt _, (byte_eq_ofNat rfl).symm, (byte_eq_ofNat rfl).symm⟩
    have := BitVec.isLt ((o.sig0 - o.sig1) * BitVec.ofNat 8 x)
    omega

/-- Settles O35: the default signature's bytes differ by 39. -/
theorem searchKeyIsUniqueForOddDifference : Obligations.SearchKeyIsUniqueForOddDifference := by
  simp only [Obligations.SearchKeyIsUniqueForOddDifference, ← toNat_sub_eq_byteDiff]
  refine ⟨fun o hsig => ⟨fun mi b hm => hm.odd_of_sig_sub_odd hsig, exists_unique_matches hsig⟩,
    fun s hs0 hs1 => ?_, fun o mi b hm => hm.sig_even⟩
  have hsig : (s.operands.sig0 - s.operands.sig1).toNat % 2 = 1 := by
    rw [hs0, hs1]
    decide
  refine ⟨_, exec_eq .bfs s, ?_⟩
  rcases exec_bfs_next_cases (exec_eq .bfs s) with ⟨hnone, hf⟩ | ⟨mi, b, hm, -, hf, hmi, -⟩
  · rw [hf]
    refine ⟨⟨nofun, fun hheader => ?_⟩, nofun⟩
    obtain ⟨x, y, -, -, hiff⟩ := exists_unique_matches hsig hheader
    exact absurd ((hiff _ _).2 ⟨rfl, rfl⟩) (hnone _ _)
  · obtain ⟨hodd, hheader⟩ := hm.odd_of_sig_sub_odd hsig
    rw [hmi]
    exact ⟨⟨fun _ => hheader, fun _ => hf⟩, fun _ => hodd⟩

/-! ## What a search depends on (R158) -/

theorem isMatch_congr {o o' : OperandRegs} (h0 : o.srchH0 = o'.srchH0) (h1 : o.srchH1 = o'.srchH1)
    (hs0 : o.sig0 = o'.sig0) (hs1 : o.sig1 = o'.sig1) : isMatch o = isMatch o' := by
  funext c
  simp only [isMatch, h0, h1, hs0, hs1]

/-- Settles O36: the loop answers the same for both states, and a search writes that answer alone. -/
theorem searchDependsOnHeaderAndSignature : Obligations.SearchDependsOnHeaderAndSignature := by
  intro i s s' t t' hi h0 h1 hs0 hs1 ht ht'
  obtain ⟨mis, hrule, -⟩ := search_minvs hi
  obtain ⟨res, hres⟩ : ∃ res, firstMatch (isMatch s.operands) (candidates mis) 0 = res := ⟨_, rfl⟩
  have hres' : firstMatch (isMatch s'.operands) (candidates mis) 0 = res := by
    rw [← isMatch_congr h0 h1 hs0 hs1, hres]
  obtain ⟨_ | c, count⟩ := res
  · cases (exec_search_of_not_found hrule hres).symm.trans ht
    cases (exec_search_of_not_found hrule hres').symm.trans ht'
    exact ⟨rfl, rfl, nofun⟩
  · cases (exec_search_of_found hrule hres).symm.trans ht
    cases (exec_search_of_found hrule hres').symm.trans ht'
    exact ⟨rfl, rfl, fun _ => ⟨rfl, rfl⟩⟩

end Sys2Proof.Machine
end

section
/-! PROOFS. The statements about exceptions and simultaneous events: the illegal word (R172), and a STATUS write that
races a completion (R180). -/

namespace Sys2Proof.Machine

/-! ## The illegal word (R172) -/

/-- The completion of an illegal word is its report and nothing else. -/
theorem completeIllegal_eq_reported (s : State) (w : Word) :
    s.completeIllegal w = s.reported (opField w) 6 w false false := rfl

/-- Settles O6: such a word does not decode (R81), and the engine's turn on a word that does not decode is the report of
R172. -/
theorem illegalWordReportsIllegalCommand : Obligations.IllegalWordReportsIllegalCommand := by
  intro s p hp hw
  cases hd : decode p.word with
  | ok i => exact absurd ((legalWordsAreFive p.word).1 ⟨i, hd⟩) hw
  | error e => exact (engineTurn_of_error hp hd).trans (congrArg _ (completeIllegal_eq_reported s p.word))

/-! ## Changes of the state that a rule neither sees nor undoes -/

/-- F commutes with every write the commands' rules are made of. -/
structure CommutesWithRuleWrites (F : State → State) : Prop where
  finish : ∀ e w s, (F s).finish e w = F (s.finish e w)
  writeChain : ∀ S s, (F s).writeChain S = F (s.writeChain S)
  writeBezout : ∀ x y n s, (F s).writeBezout x y n = F (s.writeBezout x y n)
  writeDiffs : ∀ dp dc g s, (F s).writeDiffs dp dc g = F (s.writeDiffs dp dc g)
  writeSolution : ∀ m b red s, (F s).writeSolution m b red = F (s.writeSolution m b red)
  writeKey : ∀ mi b s, (F s).writeKey mi b = F (s.writeKey mi b)
  decRule : ∀ o s, decRule o (F s) = F (decRule o s)
  setFound : ∀ s, (F s).setFound = F s.setFound
  writeCount : ∀ n s, (F s).writeCount n = F (s.writeCount n)

namespace CommutesWithRuleWrites

variable {F : State → State} (h : CommutesWithRuleWrites F)
include h

theorem invRule (o : OperandRegs) (s : State) : invRule o (F s) = F (invRule o s) := by
  unfold Machine.invRule
  dsimp only
  split
  · split
    · rw [h.writeChain, h.finish]
    · rw [h.writeChain, h.writeBezout]
  · rw [h.finish]

theorem finalInverse (m b : Nat) (s : State) : (F s).finalInverse m b = F (s.finalInverse m b) := by
  unfold State.finalInverse
  split
  · rw [h.finish]
  · split
    · rw [h.finish]
    · rw [h.writeKey]

theorem solveRule (t : Samples) (s : State) : solveRule t (F s) = F (solveRule t s) := by
  unfold Machine.solveRule
  dsimp only
  split
  · rw [h.writeDiffs, h.finish]
  · rw [h.writeDiffs, h.writeSolution, h.finalInverse]

theorem kpsRule (o : OperandRegs) (s : State) : kpsRule o (F s) = F (kpsRule o s) := by
  unfold Machine.kpsRule
  split
  · rw [h.finish]
  · split
    · rw [h.finish]
    · rw [h.solveRule]

theorem searchRule (mis : List Nat) (o : OperandRegs) (s : State) :
    searchRule mis o (F s) = F (searchRule mis o s) := by
  unfold Machine.searchRule State.writeSearch
  split
  · rw [h.writeKey, h.setFound, h.writeCount]
  · rw [h.writeCount]

/-- A rule reads its operands from the snapshot (R46) and nothing of the state but to write it. -/
theorem ruleOf (i : Instr) (o : OperandRegs) (s : State) : ruleOf i o (F s) = F (ruleOf i o s) := by
  cases i with
  | inv => exact h.invRule o s
  | kps => exact h.kpsRule o s
  | dec => exact h.decRule o s
  | bfs => exact h.searchRule allMinvs o s
  | eks => exact h.searchRule coprimeMinvs o s

end CommutesWithRuleWrites

/-! ## A STATUS write that races a completion (R180) -/

/-- What a host write of v to STATUS does besides clearing DONE (R30). -/
def State.ackOvr (v : Word) (s : State) : State :=
  { s with status := { s.status with ovr := if v.getLsbD 3 then false else s.status.ovr } }

/-- With DONE set again after it, a STATUS write on a state with DONE = 1 did all but clear it. -/
theorem writeStatus_done_set {s : State} (hd : s.status.done = true) (v : Word) :
    { s.writeStatus v with status := { (s.writeStatus v).status with done := true } } = s.ackOvr v := by
  rw [← hd]
  rfl

theorem ackOvr_commutesWithRuleWrites (v : Word) : CommutesWithRuleWrites (State.ackOvr v) where
  finish _ _ _ := rfl
  writeChain _ _ := rfl
  writeBezout _ _ _ _ := rfl
  writeDiffs _ _ _ _ := rfl
  writeSolution _ _ _ _ := rfl
  writeKey _ _ _ := rfl
  decRule _ _ := rfl
  setFound _ := rfl
  writeCount _ _ := rfl

/-- The first writes of a completion set DONE whether the host had cleared it or not, and keep OVR (R29). -/
theorem writeStatus_statusFirst (v w : Word) (s : State) :
    (s.writeStatus v).statusFirst w = (s.statusFirst w).ackOvr v := rfl

theorem writeStatus_complete (v : Word) (i : Instr) (s : State) :
    (s.writeStatus v).complete i (ruleOf i) = (s.complete i (ruleOf i)).ackOvr v := by
  have hops : (s.writeStatus v).operands = s.operands := rfl
  rw [State.complete, hops, writeStatus_statusFirst, (ackOvr_commutesWithRuleWrites v).ruleOf]
  rfl

theorem writeStatus_completeIllegal (v w : Word) (s : State) :
    (s.writeStatus v).completeIllegal w = (s.completeIllegal w).ackOvr v := rfl

/-- Of a STATUS write just before the completion only the effect on OVR is left after it. -/
theorem writeStatus_engineTurn {s u : State} {p : Pending} (hp : s.pending = some p) (hu : s.engineTurn = .next u)
    (v : Word) : (s.writeStatus v).engineTurn = .next (u.ackOvr v) := by
  have hp' : (s.writeStatus v).pending = some p := hp
  cases hd : decode p.word with
  | ok i =>
    obtain rfl := Host.Outcome.next.inj ((engineTurn_of_ok hp hd).symm.trans hu)
    rw [engineTurn_of_ok hp' hd, writeStatus_complete]
  | error e =>
    obtain rfl := Host.Outcome.next.inj ((engineTurn_of_error hp hd).symm.trans hu)
    rw [engineTurn_of_error hp' hd, writeStatus_completeIllegal]

/-- Settles O59: in both orders the STATUS write clears OVR alike, and DONE = 1 after the completion (R29). -/
theorem statusWriteCommutesWithCompletion : Obligations.StatusWriteCommutesWithCompletion := by
  intro s p v hp
  obtain ⟨u, hu, -, -, hdone, -⟩ := engineTurn_of_pending hp
  refine ⟨u.ackOvr v, u, ?_, hu, hdone, ?_⟩
  · rw [regWrite_status_index, writeStatus_engineTurn hp hu]
  · rw [regWrite_status_index, writeStatus_done_set hdone]

end Sys2Proof.Machine
end

section
/-! PROOFS. The statements about reset (R200, R201, R203, R204) and about the host-ordering rule (R210). -/

namespace Sys2Proof.Machine

/-! ## The registers after a reset (R201, R203) -/

/-- The reset column of R22's table, the chain words from the entries of zeros. -/
theorem readReg_reset (r : RegId) : State.reset.readReg r = resetWord r := by
  have entry : ∀ i : Fin 11, State.reset.chain[i] = ChainEntry.zero := fun i => Vector.getElem_replicate _
  cases r with
  | chainA i => exact congrArg ChainEntry.wordA (entry i)
  | chainB i => exact congrArg ChainEntry.wordB (entry i)
  | _ => rfl

/-- A reset is the reset state in the environment of the state it took (log entries 1 and 4). -/
theorem resetEvent_eq_withEnvironment (s : State) :
    s.resetEvent = State.reset.withEnvironment s.schedule s.replies := rfl

/-- No register shows what the environment holds (R22). -/
theorem regRead_withEnvironment (q : List Event) (rs : List Reply) (s : State) (i : Fin 64) :
    (s.withEnvironment q rs).regRead i = s.regRead i := rfl

/-- Settles O51. -/
theorem resetValues : Obligations.ResetValues := by
  refine ⟨fun r i hoff => ?_, rfl, rfl⟩
  rw [regRead_of_regAt ((regAt_iff_offset i r).2 hoff), readReg_reset]

/-- Settles O52: of the state before it, a reset keeps only what the environment holds. -/
theorem resetDiscardsEverything : Obligations.ResetDiscardsEverything := by
  refine fun s => ⟨fun i => ?_, rfl, rfl, rfl, fun s' hq hrs => ?_⟩
  · rw [resetEvent_eq_withEnvironment, regRead_withEnvironment]
  · rw [resetEvent_eq_withEnvironment, resetEvent_eq_withEnvironment, hq, hrs]

/-! ## Accesses while reset is held (R68, R204) -/

theorem laneByte_zero (j : Fin 4) : laneByte 0 j = 0 :=
  (laneByte_eq_extractLsb' 0 j).trans BitVec.extractLsb'_zero

/-- Settles O53. -/
theorem accessesInResetDoNothing : Obligations.AccessesInResetDoNothing := by
  refine fun s => ⟨fun i v => rfl, fun i => rfl, fun addr lanes => ⟨fun hl => ?_, fun hl =>
    ⟨selectLanes lanes 0, ?_, fun j b => ?_⟩⟩,
    fun addr lanes b3 b2 b1 b0 => ⟨fun hl => if_pos hl, fun hl => if_neg hl⟩⟩
  · rw [State.accessInReset, laneReply_of_all hl]
    rfl
  · rw [State.accessInReset, laneReply_of_some hl]
    rfl
  · rw [mem_selectLanes, laneByte_zero]

/-! ## The host-ordering rule (R210) -/

/-- What an obedient host writes while a command runs, it writes to STATUS. -/
theorem index_eq_status_of_hostObeys {s : State} {a : Access} {i : Fin 64} {v : Word} (hobeys : hostObeys s a = true)
    (hb : s.status.busy = true) (ha : wholeWordWrite a = some (i, v)) : i = 2 := by
  cases a with
  | read i' | laneRead addr lanes => cases ha
  | write i' v' =>
    obtain ⟨rfl, -⟩ := Prod.mk.inj (Option.some.inj ha)
    simpa [hostObeys, hb] using hobeys
  | laneWrite addr lanes b3 b2 b1 b0 =>
    obtain ⟨hl, haddr⟩ : lanes = 0xF ∧ addr.extractLsb 7 2 = (2 : BitVec 6) := by
      simpa [hostObeys, hb] using hobeys
    rw [wholeWordWrite, if_pos hl, haddr] at ha
    exact (Prod.mk.inj (Option.some.inj ha)).1.symm

/-- Settles O48: what sets OVR is a write, while a command runs, to another register than STATUS (R28). -/
theorem obedientHostNeverSetsOvr : Obligations.ObedientHostNeverSetsOvr := by
  intro s t hobeys hstep ht
  by_contra hs
  obtain ⟨-, hset, -⟩ := ovrChangesOnlyAsStated s t hstep
  obtain ⟨a, i, v, rest, hsched, ha, hi, hb⟩ := hset (Bool.eq_false_of_not_eq_true hs) ht
  exact hi (index_eq_status_of_hostObeys (hobeys a rest hsched) hb ha)

end Sys2Proof.Machine
end

section
/-! PROOFS. The statement about the order of events: a step performs the next scheduled event (R180). -/

namespace Sys2Proof.Machine

/-- Settles O4: with an event scheduled a step is that event, whoever's it is, at the state without it; with none it is
the engine's turn. -/
theorem stepPerformsTheNextEvent : Obligations.StepPerformsTheNextEvent := by
  intro s herr
  refine ⟨step_of_schedule_nil herr, ?host, ?engine, ?reset, ?hostInReset, engineTurn_of_idle⟩
  case host => exact fun _ _ hs => step_of_schedule herr hs
  case engine => exact fun _ hs => step_of_schedule herr hs
  case reset => exact fun _ hs => step_of_schedule herr hs
  case hostInReset => exact fun _ _ hs => step_of_schedule herr hs

end Sys2Proof.Machine
end
